-- ==== Sys2Proof/Word.lean ====
section
/-!
DEFINITION. The word types of the CDD: nibbles, bytes, 16-bit registers, long bus values, and a bank of ten
nibbles (10_state.md R21). Only the types: what is computed on them stands in Decode.lean and Machine/.
-/
namespace Sys2Proof

/-- One nibble of a bank: an unsigned 4-bit value (R21). -/
abbrev Nib := BitVec 4

/-- One byte of the register window or of track data (R60). -/
abbrev Byte := BitVec 8

/-- The width of `CONTROL` and of one COMM register (R11, R61). -/
abbrev Half := BitVec 16

/-- The widest bus value; an access of fewer bytes uses the low bits (R64). -/
abbrev Long := BitVec 32

/-- Ten nibbles: the command bank `CMD[0..9]`, the status bank `STAT[0..9]`, and a command packet (R21, R90).
`n0` is nibble 0 and `n9` the checksum nibble. -/
structure Bank where
  n0 : Nib
  n1 : Nib
  n2 : Nib
  n3 : Nib
  n4 : Nib
  n5 : Nib
  n6 : Nib
  n7 : Nib
  n8 : Nib
  n9 : Nib
  deriving DecidableEq, Repr

end Sys2Proof
end

