-- ==== Sys2Proof/Config.lean ====
section
/-!
DEFINITION. What the source leaves to the implementation: the sixteen statuses, thirteen commands and seven Request
sub-commands whose numeric codes are parameters (10_state.md R30, 30_encoding.md R96, R99), the parameters of
00_scope.md R9 and R10, and the one free value of the block (93_implementation_defined.md U3). The parameters' defaults and the constants of R8 stand in Machine/Codes.lean.
-/
namespace Sys2Proof

/-- `CddStatus`, in the listing order of the source (R30). -/
inductive Status where
  | stopped | playing | seeking | scanning | paused | doorOpened | checksumError | commandError
  | functionError | readingToc | tracking | noDisc | leadOut | leadIn | trayMoving | test
  deriving DecidableEq, Repr

/-- The position of a status in the listing order of R30. -/
def Status.index : Status → Fin 16
  | .stopped => 0 | .playing => 1 | .seeking => 2 | .scanning => 3
  | .paused => 4 | .doorOpened => 5 | .checksumError => 6 | .commandError => 7
  | .functionError => 8 | .readingToc => 9 | .tracking => 10 | .noDisc => 11
  | .leadOut => 12 | .leadIn => 13 | .trayMoving => 14 | .test => 15

/-- The thirteen commands, in the listing order of R96. -/
inductive Command where
  | driveStatus | stop | request | seekPlay | seekPause | pause | play | forward | reverse | trackSkip | trackCue
  | doorClose | doorOpen
  deriving DecidableEq, Repr

/-- The position of a command in the listing order of R96. -/
def Command.index : Command → Fin 13
  | .driveStatus => 0 | .stop => 1 | .request => 2 | .seekPlay => 3 | .seekPause => 4 | .pause => 5 | .play => 6
  | .forward => 7 | .reverse => 8 | .trackSkip => 9 | .trackCue => 10 | .doorClose => 11 | .doorOpen => 12

/-- The seven Request sub-commands, in the listing order of R99. -/
inductive SubCommand where
  | absoluteTime | relativeTime | trackInformation | discCompletionTime | discTracks | trackStartTime
  | errorInformation
  deriving DecidableEq, Repr

/-- The position of a sub-command in the listing order of R99. -/
def SubCommand.index : SubCommand → Fin 7
  | .absoluteTime => 0 | .relativeTime => 1 | .trackInformation => 2 | .discCompletionTime => 3 | .discTracks => 4
  | .trackStartTime => 5 | .errorInformation => 6

/-- The parameters of one implementation of the block (R9, R10), and one of the model's own. They are plain data in
`State.cfg`, so that whatever is said of every state is said for every value of them; no step writes them. -/
structure Config where
  /-- `SEEK_BASE`, polling ticks (R9). -/
  seekBase : Nat
  /-- `SEEK_NUM` (R9). -/
  seekNum : Nat
  /-- `SEEK_DEN` (R9). -/
  seekDen : Nat
  /-- `STATUS_CODE`: the code of the status with index `k` is entry `k` (R10, R30). -/
  statusCodes : Vector Nib 16
  /-- `CMD_CODE`: the code of the command with index `k` is entry `k` (R10, R96). -/
  cmdCodes : Vector Nib 13
  /-- `REQ_CODE`: the code of the sub-command with index `k` is entry `k` (R10, R99). -/
  reqCodes : Vector Nib 7
  /-- `OFF_FADER` (R10). -/
  offFader : Nat
  /-- `OFF_CONTROL` (R10). -/
  offControl : Nat
  /-- `OFF_COMM0` (R10); COMM`k` is at `offComm0 + 2k`. -/
  offComm0 : Nat
  /-- `DM_BIT`: the bit of `CONTROL` that holds the data/music flag (R10, R23). -/
  dmBit : Nat
  /-- `DM_DATA`: the value of that bit that means DATA (R10). -/
  dmData : Bool
  /-- `LEADOUT_TRACK`, the lead-out sentinel (R10, R34). -/
  leadoutTrack : Byte
  /-- `BLOCK_FLAG_DATA` (R10, R106). -/
  blockFlagData : Nib
  /-- `TST_FLAG_DATA` (R10, R110). -/
  tstFlagData : Nib
  /-- `TRACK_END_INCLUSIVE` (R10, R126). -/
  trackEndInclusive : Bool
  /-- The model's own parameter for `sampleOffset` in LeadOut where a tick took it from the sector size to 4 more:
  true for the sector size, the range of 10_state.md R36 and R40, false for the sum of 46_audio_tick.md R290. DESIGN
  CHOICE: notes/assumptions/44.md. -/
  offsetBounded : Bool
  deriving DecidableEq, Repr

/-- What the rules need of the parameters: `STATUS_CODE` is a bijection onto 0 to 15 (D1); `CMD_CODE` is injective
(R96, D2); `REQ_CODE` is injective and leaves 0xF to the sentinel of R102 (D3); the registers of the window are
word-aligned and do not overlap (R61, R62, D4); `DM_BIT` is a bit of `CONTROL` other than `HOCK` (R23); the sentinel
differs from 0 and from every track number 1 to 99 (D16); the seek constants are positive (R9). -/
def Config.wf (c : Config) : Bool :=
  c.statusCodes.toList.Nodup && c.cmdCodes.toList.Nodup && ((0xF : Nib) :: c.reqCodes.toList).Nodup
    && c.offFader % 2 == 0 && c.offControl % 2 == 0 && c.offComm0 % 2 == 0
    && (c.offFader + 2 ≤ c.offControl || c.offControl + 2 ≤ c.offFader)
    && (c.offFader + 2 ≤ c.offComm0 || c.offComm0 + 20 ≤ c.offFader)
    && (c.offControl + 2 ≤ c.offComm0 || c.offComm0 + 20 ≤ c.offControl)
    && decide (c.dmBit < 16) && c.dmBit != 2
    && decide (99 < c.leadoutTrack.toNat)
    && decide (0 < c.seekBase) && decide (0 < c.seekDen)

/-- The free value of 93_implementation_defined.md U3: the 28 bits that a Request TrackStartTime for a missing
track leaves in `STAT[2..8]`. It has no body: nothing can be proved of its values (notes/assumptions/16.md). -/
opaque Config.freePayload : Nat → BitVec 28

end Sys2Proof
end

