-- ==== Sys2Proof/Machine/Codes.lean ====
section
/-!
DEFINITION. The constants of 00_scope.md R8, the defaults of the parameters (R9, R10), and the two code maps of the
packets, `CMD_CODE` and `REQ_CODE`, with their lookups (30_encoding.md R96, R99, 41_latch_checksum_dispatch.md R156).
-/
namespace Sys2Proof

/-- `LEAD_IN` (R8). -/
def leadIn : Nat := 150

/-- `FRAMES_PER_SEC` (R8). -/
def framesPerSec : Nat := 75

/-- `SEC_PER_MIN` (R8). -/
def secPerMin : Nat := 60

/-- `SECTOR_SIZE` (R8). -/
def sectorSize : Nat := 2352

/-- `SAMPLE_BYTES` (R8). -/
def sampleBytes : Nat := 4

/-- `DS_LAT_MAX` (R8). -/
def dsLatMax : Nat := 3

/-- `MIN_TRACK_SECTORS` (R8). -/
def minTrackSectors : Nat := 150

/-- The defaults of R9 and R10, which every example and test vector of the spec uses. PRESUMED or DESIGN CHOICE
value by value: notes/assumptions 2 to 7, 14, 15, 18, 22, 41, 44. -/
def Config.default : Config where
  seekBase := 11
  seekNum := 120
  seekDen := 270000
  statusCodes := #v[0x0, 0x1, 0x2, 0x3, 0x4, 0x5, 0x6, 0x7, 0x8, 0x9, 0xA, 0xB, 0xC, 0xD, 0xE, 0xF]
  cmdCodes := #v[0x0, 0x1, 0x2, 0x3, 0x4, 0x6, 0x7, 0x8, 0x9, 0xA, 0xB, 0xC, 0xD]
  reqCodes := #v[0x0, 0x1, 0x2, 0x3, 0x4, 0x5, 0x6]
  offFader := 0x34
  offControl := 0x36
  offComm0 := 0x38
  dmBit := 8
  dmData := true
  leadoutTrack := 0xAA
  blockFlagData := 0x4
  tstFlagData := 0x8
  trackEndInclusive := true
  offsetBounded := true

/-! ### Code maps -/

/-- The thirteen commands (R96). -/
def Command.all : List Command :=
  [.driveStatus, .stop, .request, .seekPlay, .seekPause, .pause, .play, .forward, .reverse, .trackSkip, .trackCue,
   .doorClose, .doorOpen]

/-- The seven sub-commands (R99). -/
def SubCommand.all : List SubCommand :=
  [.absoluteTime, .relativeTime, .trackInformation, .discCompletionTime, .discTracks, .trackStartTime,
   .errorInformation]

/-- The sixteen nibbles, rising. -/
def allNibs : List Nib := [0x0, 0x1, 0x2, 0x3, 0x4, 0x5, 0x6, 0x7, 0x8, 0x9, 0xA, 0xB, 0xC, 0xD, 0xE, 0xF]

/-- `CMD_CODE(x)` (R96). -/
def Config.cmdCode (c : Config) (x : Command) : Nib := c.cmdCodes[x.index]

/-- `REQ_CODE(x)` (R99). -/
def Config.reqCode (c : Config) (x : SubCommand) : Nib := c.reqCodes[x.index]

/-- The command with a code; none for an unassigned code (R156). -/
def Config.commandOf (c : Config) (n : Nib) : Option Command := Command.all.find? (fun x => c.cmdCode x == n)

/-- The sub-command with a code; none for an unassigned code (R93, R99). -/
def Config.subCommandOf (c : Config) (n : Nib) : Option SubCommand := SubCommand.all.find? (fun x => c.reqCode x == n)

/-- The unassigned command codes, rising: 5, 0xE and 0xF by default (R96). -/
def Config.freeCmdCodes (c : Config) : List Nib := allNibs.filter (fun n => (c.commandOf n).isNone)

/-- The unassigned sub-command codes, rising: 7 to 0xF by default (R99). -/
def Config.freeReqCodes (c : Config) : List Nib := allNibs.filter (fun n => (c.subCommandOf n).isNone)

/-- The "track info invalid" selector a seek leaves in `STAT[1]` (R102, R105). -/
def selInvalid : Nib := 0xF

end Sys2Proof
end

