-- ==== Sys2Proof/Syntax.lean ====
section
/-!
DEFINITION. The command packets of the block as data: one constructor per row of spec/opcode_table.json, with the
operand nibbles the row's format names (30_encoding.md R92 to R95). A nibble that a format does not name takes no
part in a command's meaning (R91) and is no field here.
-/
namespace Sys2Proof

/-- A decoded command (30_encoding.md R96, R99). Operand nibbles are used as numbers, never range-checked (R98). -/
inductive Instr where
  /-- DRIVESTATUS, also called Idle (R180). -/
  | driveStatus
  /-- STOP (R183). -/
  | stop
  /-- REQUEST_ABS (R216). -/
  | requestAbs
  /-- REQUEST_REL (R217). -/
  | requestRel
  /-- REQUEST_TRACK (R218). -/
  | requestTrack
  /-- REQUEST_TOTAL (R219). -/
  | requestTotal
  /-- REQUEST_TRACKS (R220). -/
  | requestTracks
  /-- REQUEST_TSTART with the requested track's tens and units digits (R94, R221). -/
  | requestTstart (t10 t1 : Nib)
  /-- REQUEST_ERROR (R222). -/
  | requestError
  /-- REQUEST_UNASSIGNED_7 (R223). -/
  | requestUnassigned7
  /-- REQUEST_UNASSIGNED_8_F with its sub-command code, 8 to 15 (R223). -/
  | requestUnassigned8F (sub : Nib)
  /-- SEEKPLAY with the target time code's digits (R95, R247). -/
  | seekPlay (m10 m1 s10 s1 f10 f1 : Nib)
  /-- SEEKPAUSE with the target time code's digits (R95, R248). -/
  | seekPause (m10 m1 s10 s1 f10 f1 : Nib)
  /-- UNASSIGNED_5 (R196). -/
  | unassigned5
  /-- PAUSE (R185). -/
  | pause
  /-- PLAY (R186). -/
  | play
  /-- FORWARD (R192). -/
  | forward
  /-- REVERSE (R193). -/
  | reverse
  /-- TRACKSKIP (R187). -/
  | trackSkip
  /-- TRACKCUE (R195). -/
  | trackCue
  /-- DOORCLOSE (R190). -/
  | doorClose
  /-- DOOROPEN (R191). -/
  | doorOpen
  /-- UNASSIGNED_E (R196). -/
  | unassignedE
  /-- UNASSIGNED_F (R196). -/
  | unassignedF
  deriving DecidableEq, Repr

end Sys2Proof
end

