-- ==== Sys2Proof/WellFormed.lean ====
section
/-!
DEFINITION. Which decoded commands stand for packets of their own row of spec/opcode_table.json.
-/
namespace Sys2Proof

/-- Every operand nibble of a command may have any value (R98), but the sub-command code of the row
REQUEST_UNASSIGNED_8_F is an unassigned one other than the lowest, which is one of 8 to 15 by default (R99). -/
def Instr.wf (c : Config) : Instr → Bool
  | .driveStatus => true
  | .stop => true
  | .requestAbs => true
  | .requestRel => true
  | .requestTrack => true
  | .requestTotal => true
  | .requestTracks => true
  | .requestTstart _ _ => true
  | .requestError => true
  | .requestUnassigned7 => true
  | .requestUnassigned8F sub => c.freeReqCodes.tail.contains sub
  | .seekPlay _ _ _ _ _ _ => true
  | .seekPause _ _ _ _ _ _ => true
  | .unassigned5 => true
  | .pause => true
  | .play => true
  | .forward => true
  | .reverse => true
  | .trackSkip => true
  | .trackCue => true
  | .doorClose => true
  | .doorOpen => true
  | .unassignedE => true
  | .unassignedF => true

end Sys2Proof
end

