-- ==== Sys2Proof/Decode.lean ====
section
/-!
DEFINITION. Packets of ten nibbles, their checksum, the decoder and the encoder (30_encoding.md R90 to R99,
41_latch_checksum_dispatch.md R152, R153, R156).
-/
namespace Sys2Proof

/-- `chk(n[0..8])`: the complement of the plain sum of nibbles 0 to 8, its low nibble kept (R152). -/
def chk (p : Bank) : Nib :=
  ~~~(p.n0 + p.n1 + p.n2 + p.n3 + p.n4 + p.n5 + p.n6 + p.n7 + p.n8)

/-- `validate(n[0..9])`: the tenth nibble is the checksum of the nine before it (R153). -/
def validate (p : Bank) : Bool := chk p == p.n9

/-- The bank with its checksum nibble made right (R158, and R91 for a packet). -/
def sealBank (p : Bank) : Bank := { p with n9 := chk p }

/-- `CMD[i]` of the 40-bit packet number `w` is bits `39-4i` down to `36-4i` (R90). -/
def packetNibble (w i : Nat) : Nib := BitVec.ofNat 4 (w >>> (36 - 4 * i))

/-- The packet whose 40-bit number is `w` (R90). -/
def packetOfNat (w : Nat) : Bank :=
  ⟨packetNibble w 0, packetNibble w 1, packetNibble w 2, packetNibble w 3, packetNibble w 4,
   packetNibble w 5, packetNibble w 6, packetNibble w 7, packetNibble w 8, packetNibble w 9⟩

/-- The 40-bit number of a packet, `CMD[0]` most significant (R90). -/
def packetToNat (p : Bank) : Nat :=
  [p.n0, p.n1, p.n2, p.n3, p.n4, p.n5, p.n6, p.n7, p.n8, p.n9].foldl (fun w n => 16 * w + n.toNat) 0

/-- The sub-command of a Request: `CMD[3]` is looked up in `REQ_CODE` (R93, R99, R156). Of the unassigned codes the
lowest is the row REQUEST_UNASSIGNED_7, every other one the row REQUEST_UNASSIGNED_8_F: notes/assumptions/3.md. -/
def decodeRequest (c : Config) (p : Bank) : Instr :=
  match c.subCommandOf p.n3 with
  | some .absoluteTime => .requestAbs
  | some .relativeTime => .requestRel
  | some .trackInformation => .requestTrack
  | some .discCompletionTime => .requestTotal
  | some .discTracks => .requestTracks
  | some .trackStartTime => .requestTstart p.n4 p.n5
  | some .errorInformation => .requestError
  | none => if c.freeReqCodes.head? = some p.n3 then .requestUnassigned7 else .requestUnassigned8F p.n3

/-- The row of an unassigned command code: the rows UNASSIGNED_5, UNASSIGNED_E and UNASSIGNED_F in the order of the
unassigned codes (R96): notes/assumptions/3.md. -/
def decodeFree (c : Config) (n : Nib) : Instr :=
  match c.freeCmdCodes.idxOf n with
  | 0 => .unassigned5
  | 1 => .unassignedE
  | _ => .unassignedF

/-- The command that a packet's nibbles 0 to 8 name: `CMD[0]` is looked up in `CMD_CODE`; the lookup is total
(R96, R156). -/
def decodeFields (c : Config) (p : Bank) : Instr :=
  match c.commandOf p.n0 with
  | some .driveStatus => .driveStatus
  | some .stop => .stop
  | some .request => decodeRequest c p
  | some .seekPlay => .seekPlay p.n2 p.n3 p.n4 p.n5 p.n6 p.n7
  | some .seekPause => .seekPause p.n2 p.n3 p.n4 p.n5 p.n6 p.n7
  | some .pause => .pause
  | some .play => .play
  | some .forward => .forward
  | some .reverse => .reverse
  | some .trackSkip => .trackSkip
  | some .trackCue => .trackCue
  | some .doorClose => .doorClose
  | some .doorOpen => .doorOpen
  | none => decodeFree c p.n0

/-- Why a packet is not decoded. -/
inductive DecodeError where
  /-- `CMD[9]` is not the checksum of `CMD[0..8]`; the packet is not decoded at all (R91, R155). -/
  | badChecksum
  deriving DecidableEq, Repr

/-- The decoder: the checksum is tested first and alone (R91, R316); a packet that passes always names a command
(R97: "every one of the 2^40 packets has a defined effect"). -/
def decode (c : Config) (p : Bank) : Except DecodeError Instr :=
  if validate p then .ok (decodeFields c p) else .error .badChecksum

/-- The nibble of a byte of the command bank: bits 3:0, the upper bits dropped (R62, R66). -/
def nibbleOfByte (b : Byte) : Nib := b.setWidth 4

/-- The decoder on the ten bytes of COMM5 to COMM9 as they lie in the window, any other number of bytes being no
packet (R62, R90). -/
def decodeBytes (c : Config) : List Byte → Option (Except DecodeError Instr)
  | [b0, b1, b2, b3, b4, b5, b6, b7, b8, b9] =>
    some (decode c ⟨nibbleOfByte b0, nibbleOfByte b1, nibbleOfByte b2, nibbleOfByte b3, nibbleOfByte b4,
      nibbleOfByte b5, nibbleOfByte b6, nibbleOfByte b7, nibbleOfByte b8, nibbleOfByte b9⟩)
  | _ => none

/-- A packet of Format N (R92), ignored nibbles 0 (R112). -/
def packetN (code : Nib) : Bank := sealBank ⟨code, 0, 0, 0, 0, 0, 0, 0, 0, 0⟩

/-- A packet of Format R or T (R93, R94). -/
def packetR (c : Config) (sub t10 t1 : Nib) : Bank := sealBank ⟨c.cmdCode .request, 0, 0, sub, t10, t1, 0, 0, 0, 0⟩

/-- A packet of Format S (R95). -/
def packetS (code m10 m1 s10 s1 f10 f1 : Nib) : Bank := sealBank ⟨code, 0, m10, m1, s10, s1, f10, f1, 0, 0⟩

/-- The packet of a command, ignored nibbles 0 and the checksum right (R91 to R99, R112). -/
def encode (c : Config) : Instr → Bank
  | .driveStatus => packetN (c.cmdCode .driveStatus)
  | .stop => packetN (c.cmdCode .stop)
  | .requestAbs => packetR c (c.reqCode .absoluteTime) 0 0
  | .requestRel => packetR c (c.reqCode .relativeTime) 0 0
  | .requestTrack => packetR c (c.reqCode .trackInformation) 0 0
  | .requestTotal => packetR c (c.reqCode .discCompletionTime) 0 0
  | .requestTracks => packetR c (c.reqCode .discTracks) 0 0
  | .requestTstart t10 t1 => packetR c (c.reqCode .trackStartTime) t10 t1
  | .requestError => packetR c (c.reqCode .errorInformation) 0 0
  | .requestUnassigned7 => packetR c (c.freeReqCodes.getD 0 0) 0 0
  | .requestUnassigned8F sub => packetR c sub 0 0
  | .seekPlay m10 m1 s10 s1 f10 f1 => packetS (c.cmdCode .seekPlay) m10 m1 s10 s1 f10 f1
  | .seekPause m10 m1 s10 s1 f10 f1 => packetS (c.cmdCode .seekPause) m10 m1 s10 s1 f10 f1
  | .unassigned5 => packetN (c.freeCmdCodes.getD 0 0)
  | .pause => packetN (c.cmdCode .pause)
  | .play => packetN (c.cmdCode .play)
  | .forward => packetN (c.cmdCode .forward)
  | .reverse => packetN (c.cmdCode .reverse)
  | .trackSkip => packetN (c.cmdCode .trackSkip)
  | .trackCue => packetN (c.cmdCode .trackCue)
  | .doorClose => packetN (c.cmdCode .doorClose)
  | .doorOpen => packetN (c.cmdCode .doorOpen)
  | .unassignedE => packetN (c.freeCmdCodes.getD 1 0)
  | .unassignedF => packetN (c.freeCmdCodes.getD 2 0)

/-- The command that a word of spec/opcode_table.json names: the table's words are the 40-bit packet numbers of R90
with the default codes, and its field `k` (`CMD[9]`, the checksum) takes no part in naming the command (R156), so that
a table word with that field left 0 names its row all the same. The checksum is tested by `decode`, before a packet
runs. -/
def decodeTableWord (nbits w : Nat) : Option Instr :=
  if nbits ≤ 40 then some (decodeFields .default (packetOfNat (w % 2 ^ nbits))) else none

end Sys2Proof
end

