-- ==== Sys2Proof/Machine/Data.lean ====
section
/-!
DEFINITION. The types of the state's parts as plain data (10_state.md R20 to R46), the input events the block steps on
(00_scope.md R3), and the signals a step emits (60_exceptions.md R320 to R323).
-/
namespace Sys2Proof.Machine

/-- Sparse bytes: (offset, byte) pairs. The canonical form (`Memory.wf`) has rising offsets and lists no byte equal
to what an unlisted offset reads as, which is 0 (notes/assumptions/28.md). -/
abbrev Memory := List Host.Cell

/-- A value of `track`: a natural number below 256 (R11). -/
abbrev TrackNumber := Fin 256

/-- Content type of a track (R42). -/
inductive TrackType where
  | data | audio
  deriving DecidableEq, Repr

/-- Detected image kind (R41). -/
inductive DiscKind where
  | iso | binCue | unknown
  deriving DecidableEq, Repr

/-- One entry of the Track Table (R42). -/
structure TrackEntry where
  /-- `e.number`, 1-based; of the same range as `track`, which takes its value (R11, R129). -/
  number : TrackNumber
  /-- `e.type`. -/
  type : TrackType
  /-- `e.sectorSize`, bytes. -/
  sectorSize : Nat
  /-- `e.start`, absolute sector. -/
  startSector : Nat
  /-- `e.end`, absolute sector; one past the last whole sector (R43 (d), R44). -/
  endSector : Nat
  /-- `e.lenBytes`. -/
  lenBytes : Nat
  /-- `e.data`, read only through `trackData` (R42, R76). -/
  data : Memory
  deriving DecidableEq, Repr

/-- The disc state (R20 (e), R41), written by disc insertion and removal only. -/
structure Disc where
  present : Bool
  /-- `TT`, in track order. -/
  table : List TrackEntry
  numTracks : Nat
  totalEnd : Nat
  kind : DiscKind
  deriving DecidableEq, Repr

/-- The playback state (R20 (d), R32 to R39). -/
structure Playback where
  status : Status
  track : TrackNumber
  sector : Int
  sampleOffset : Nat
  latency : Nat
  pendingStatus : Status
  tocReadDone : Bool
  deriving DecidableEq, Repr

/-- The saved surface of `SaveState`: both banks, `CONTROL` and the playback state (R350). -/
structure Saved where
  cmd : Bank
  stat : Bank
  control : Half
  play : Playback
  deriving DecidableEq, Repr

/-- The size of a bus access, 1, 2 or 4 bytes (R64). -/
inductive Size where
  | byte | word | long
  deriving DecidableEq, Repr

/-- What the byte source answers to the one read of an Audio Tick (R76, 93_implementation_defined.md U4). -/
inductive TrackIo where
  /-- the bytes of the image loaded at insertion -/
  | image
  /-- other bytes, as from the dummy fallback byte source of R76 -/
  | supplied (b0 b1 b2 b3 : Byte)
  /-- an I/O failure -/
  | failure
  deriving DecidableEq, Repr

/-- One track of a disc to be inserted: the inputs of R132's arithmetic, and the bytes of the track's data. -/
structure TrackSource where
  type : TrackType
  lenBytes : Nat
  cells : List Host.Cell
  deriving DecidableEq, Repr

/-- The payload of `InsertDisc` (R45, R134, R345, R346). -/
inductive DiscPayload where
  /-- a parsed image of the given kind -/
  | image (kind : DiscKind) (tracks : List TrackSource)
  /-- the front end found no usable image (R314) -/
  | loadError
  deriving DecidableEq, Repr

/-- An input event (R3). -/
inductive Event where
  | busWrite (off : Nat) (n : Size) (v : Long)
  | busRead (off : Nat) (n : Size)
  | pollTick
  | audioTick (io : TrackIo)
  | insertDisc (payload : DiscPayload)
  | eject
  | saveState
  | restoreState (saved : Saved)
  | reset
  deriving DecidableEq, Repr

/-- A signal or returned value of a step (R45, R70, R320 to R322, R345, R346, R350). -/
inductive Output where
  /-- the interrupt hook (R320) -/
  | irq
  /-- the sector-decoder hook (R321) -/
  | cdcSector (n : Int)
  /-- the audio sink hook, left then right (R322) -/
  | sample (l r : Int)
  /-- the bytes of a `BusRead`, lowest offset first, that is most significant first (R71); `none` is a byte that is
  not the block's, whose value is the platform's (R70, U14) -/
  | readData (bytes : List (Option Byte))
  /-- a successful insertion (R345) -/
  | insertOk
  /-- a failed insertion (R346) -/
  | loadFailure
  /-- the copy that `SaveState` returns (R350) -/
  | saved (copy : Saved)
  deriving DecidableEq, Repr

end Sys2Proof.Machine
end

