-- ==== Sys2Proof/Machine/Params.lean ====
section
/-!
DEFINITION. The numeric code of a status (10_state.md R30) and the values after reset (R47).
-/
namespace Sys2Proof.Machine

/-- `code(st)` (R13, R30). -/
def statusCode (c : Config) (st : Status) : Nib := c.statusCodes[st.index]

/-- `LEADOUT_TRACK` as a value of `track` (R34). -/
def leadoutNumber (c : Config) : TrackNumber := ⟨c.leadoutTrack.toNat, c.leadoutTrack.isLt⟩

/-- The defaults of the playback state, but for the status, which the caller names (R32, R47, R345, R348). -/
def Playback.defaults (st : Status) : Playback where
  status := st
  track := 0
  sector := 0
  sampleOffset := 0
  latency := 0
  pendingStatus := .stopped
  tocReadDone := false

/-- No disc (R41, R47). -/
def Disc.none : Disc where
  present := false
  table := []
  numTracks := 0
  totalEnd := 0
  kind := .unknown

/-- The command bank after power-on (R47). -/
def powerOnCmd : Bank := ⟨0, 0, 0, 0, 0, 0, 0, 0, 0, 0⟩

/-- The status bank after power-on: NoDisc reported, a valid checksum (R47). -/
def powerOnStat (c : Config) : Bank := sealBank ⟨statusCode c .noDisc, 0, 0, 0, 0, 0, 0, 0, 0, 0⟩

/-- `CONTROL` after power-on (R47). -/
def powerOnControl : Half := 0x0000

end Sys2Proof.Machine
end

