-- ==== Sys2Proof/Machine/State.lean ====
section
/-!
DEFINITION. The state of the block as plain data (10_state.md R20 to R47), why a step can stop, and the state after
reset (R47, R340).
-/
namespace Sys2Proof.Machine

/-- The whole state. The block's own state (R20) is `cmd`, `stat`, `control`, `play` and `disc`; the other four
fields are the model's (notes/assumptions 1, 2, 16). -/
structure State where
  /-- `CMD[0..9]` -/
  cmd : Bank
  /-- `STAT[0..9]` -/
  stat : Bank
  /-- `CONTROL` -/
  control : Half
  play : Playback
  disc : Disc
  /-- the parameters of R9 and R10; no step writes them -/
  cfg : Config
  /-- the events still to be delivered, the next one first -/
  inputs : List Event
  /-- what the latest step emitted, in order -/
  outputs : List Output
  /-- how many free payloads have been drawn -/
  draws : Nat
  deriving DecidableEq, Repr

/-- No fault exists: "no event of R3 ever fails, gets stuck or leaves the state undefined" (R310), "nothing in
this block is `stuck` or `fault`" (93_implementation_defined.md). Nobody raises one; leaving the type empty is safe,
because each of the spec's error classes has its next state in the model. -/
inductive Fault where
  deriving DecidableEq, Repr

/-- Why a step gives no next state. -/
inductive Refusal where
  /-- Raised by an arm of `exec` whose instruction has no meaning yet. Safe. No arm raises it now. -/
  | notModelled (mnemonic : String)
  /-- Raised by `busWrite` and `busRead`: a word or long access at an odd offset, which the spec refuses
  (R65, U9). Safe. -/
  | misalignedAccess (off : Nat)
  /-- Raised by Request AbsoluteTime and DriveStatus when `sector` is below -150, which only a restored state can
  hold: `toMSF` is refused there (R122, R351, U10). Safe. -/
  | timeCodeBelowLeadIn (sector : Int)
  /-- Raised by `insertDisc` while a disc is present, which the spec refuses (R347, U8). Safe. -/
  | discAlreadyPresent
  deriving DecidableEq, Repr

/-- The block right after power-on, with the default parameters and nothing from outside waiting (R47, R340).
DESIGN CHOICE for every register value but `status` and the disc: notes/assumptions/9.md. -/
def State.reset : State where
  cmd := powerOnCmd
  stat := powerOnStat .default
  control := powerOnControl
  play := .defaults .noDisc
  disc := .none
  cfg := .default
  inputs := []
  outputs := []
  draws := 0

end Sys2Proof.Machine
end

