-- ==== Sys2Proof/Machine/Operands.lean ====
section
/-!
DEFINITION. Operand assembly and time-code arithmetic (30_encoding.md R98, 40_resolver.md R120 to R123,
44_commands_seek.md R241, R242): pure functions.
-/
namespace Sys2Proof.Machine

/-- A two-nibble digit pair: ten times the first nibble plus the second, no digit checked (R98). -/
def pairValue (hi lo : Nib) : Nat := 10 * hi.toNat + lo.toNat

/-- Minutes, seconds, frames (R17 MSF). -/
structure Msf where
  m : Nat
  s : Nat
  f : Nat
  deriving DecidableEq, Repr

/-- `toSector(mm, ss, ff)` (R120). -/
def toSector (mm ss ff : Nat) : Int :=
  ((((mm * secPerMin + ss) * framesPerSec + ff : Nat) : Int)) - (leadIn : Int)

/-- `msfRaw(a)` (R121). -/
def msfRaw (a : Nat) : Msf :=
  ⟨a / (secPerMin * framesPerSec), (a / framesPerSec) % secPerMin, a % framesPerSec⟩

/-- `toMSF(lba)`, defined from -150 up (R122). -/
def toMsf (lba : Int) : Option Msf :=
  if lba < -(leadIn : Int) then none else some (msfRaw (lba + leadIn).toNat)

/-- `bcd2(v)`, tens digit: the low nibble of the quotient (R123). -/
def bcdTens (v : Nat) : Nib := BitVec.ofNat 4 (v / 10)

/-- `bcd2(v)`, units digit (R123). -/
def bcdUnits (v : Nat) : Nib := BitVec.ofNat 4 (v % 10)

/-- The target of a seek, from its six digits (R241). -/
def seekTarget (m10 m1 s10 s1 f10 f1 : Nib) : Int :=
  toSector (pairValue m10 m1) (pairValue s10 s1) (pairValue f10 f1)

/-- The distance term of a seek: the product first, then the truncating division (R242). -/
def seekDist (c : Config) (target sector : Int) : Nat :=
  ((target - sector).natAbs * c.seekNum) / c.seekDen

/-- The latency a seek leaves: the base only if none is pending, the distance term always (R243). -/
def seekLatency (c : Config) (pending dist : Nat) : Nat :=
  (if pending = 0 then c.seekBase else pending) + dist

end Sys2Proof.Machine
end

