-- ==== Sys2Proof/Machine/Ops.lean ====
section
/-!
DEFINITION. The named operations over the state: sequencing, track-data bytes, nibbles of a bank, the status reply,
track lookup and bookkeeping (40_resolver.md R125 to R131), and the error responses (60_exceptions.md R311, R312),
which are all the block has in the place of exceptions (R319).
-/
namespace Sys2Proof.Machine

/-- The outcome of a step, a command or a byte access of this block. -/
abbrev Result := Host.Outcome State Fault Refusal

/-- Go on with `f` where `r` gives a next state; a stop stays a stop. -/
def andThen (r : Result) (f : State → Result) : Result :=
  match r with
  | .next s => f s
  | .fault e => .fault e
  | .refused e => .refused e

/-! ### Bytes of track data -/

/-- Offsets rise strictly from `lo` on, and no listed byte is 0. -/
def Memory.wfFrom : Nat → Memory → Bool
  | _, [] => true
  | lo, (a, b) :: rest => decide (lo ≤ a) && b != 0#8 && Memory.wfFrom (a + 1) rest

/-- The canonical form: equal contents are equal data. -/
def Memory.wf (m : Memory) : Bool := Memory.wfFrom 0 m

/-- The byte at an offset; an unlisted offset reads as 0. -/
def Memory.read : Memory → Nat → Byte
  | [], _ => 0#8
  | (k, b) :: rest, a => if k = a then b else Memory.read rest a

/-- Write one byte, keeping the canonical form. -/
def Memory.write : Memory → Nat → Byte → Memory
  | [], a, b => if b = 0#8 then [] else [(a, b)]
  | (k, c) :: rest, a, b =>
    if a < k then (if b = 0#8 then (k, c) :: rest else (a, b) :: (k, c) :: rest)
    else if a = k then (if b = 0#8 then rest else (a, b) :: rest)
    else (k, c) :: Memory.write rest a b

/-- The canonical form of the bytes `0` to `len-1` that a list of cells names; where two cells name one offset the
earlier one counts. -/
def Memory.ofCells (len : Nat) : List Host.Cell → Memory
  | [] => []
  | (a, b) :: rest => if a < len then (Memory.ofCells len rest).write a b else Memory.ofCells len rest

/-! ### Nibbles of a bank -/

/-- `x[i]` (R13). -/
def Bank.get (x : Bank) (i : Fin 10) : Nib :=
  match i with
  | 0 => x.n0 | 1 => x.n1 | 2 => x.n2 | 3 => x.n3 | 4 => x.n4
  | 5 => x.n5 | 6 => x.n6 | 7 => x.n7 | 8 => x.n8 | 9 => x.n9

/-- `x[i] <- v` (R13). -/
def Bank.set (x : Bank) (i : Fin 10) (v : Nib) : Bank :=
  match i with
  | 0 => { x with n0 := v } | 1 => { x with n1 := v } | 2 => { x with n2 := v } | 3 => { x with n3 := v }
  | 4 => { x with n4 := v } | 5 => { x with n5 := v } | 6 => { x with n6 := v } | 7 => { x with n7 := v }
  | 8 => { x with n8 := v } | 9 => { x with n9 := v }

/-! ### Writing single pieces of state -/

/-- `status <- st`. -/
def setStatus (st : Status) (s : State) : State := { s with play := { s.play with status := st } }

/-- `sector <- n`. -/
def setSector (n : Int) (s : State) : State := { s with play := { s.play with sector := n } }

/-- `sampleOffset <- n`. -/
def setSampleOffset (n : Nat) (s : State) : State := { s with play := { s.play with sampleOffset := n } }

/-- `track <- n`. -/
def setTrackNumber (n : TrackNumber) (s : State) : State := { s with play := { s.play with track := n } }

/-- `emit sig` (R14). -/
def emit (o : Output) (s : State) : State := { s with outputs := s.outputs ++ [o] }

/-! ### The status reply -/

/-- `STAT[0] <- code(st)`. -/
def replyStatus (st : Status) (s : State) : State :=
  { s with stat := { s.stat with n0 := statusCode s.cfg st } }

/-- `STAT[0] <- code(status)`: the status refresh. -/
def refreshStatus (s : State) : State := replyStatus s.play.status s

/-- `STAT[1..8] <- (...)`. -/
def replyPayload (p1 p2 p3 p4 p5 p6 p7 p8 : Nib) (s : State) : State :=
  { s with stat := { s.stat with n1 := p1, n2 := p2, n3 := p3, n4 := p4, n5 := p5, n6 := p6, n7 := p7, n8 := p8 } }

/-- The layout of a time report: selector, six digits, and the last payload nibble (R106, R108). -/
def replyTime (sel : Nib) (t : Msf) (last : Nib) (s : State) : State :=
  replyPayload sel (bcdTens t.m) (bcdUnits t.m) (bcdTens t.s) (bcdUnits t.s) (bcdTens t.f) (bcdUnits t.f) last s

/-- `STAT[9] <- chk(STAT[0..8])`, the last act of every command (R158). -/
def sealReply (s : State) : State := { s with stat := sealBank s.stat }

/-! ### Track lookup -/

/-- Track Table entry number `n`, counting from 1 (R43 (a)). -/
def trackEntry (d : Disc) (n : Nat) : Option TrackEntry :=
  if 1 ≤ n ∧ n ≤ d.numTracks then d.table[n - 1]? else none

/-- `curEntry()` (R125): none for track 0, for the lead-out sentinel, and whenever no disc is present.
DEDUCED: notes/assumptions/18.md. -/
def curEntry (s : State) : Option TrackEntry :=
  if s.play.track = leadoutNumber s.cfg then none else trackEntry s.disc s.play.track.val

/-- Whether sector `lba` lies in the entry's interval, its end inside or outside by `TRACK_END_INCLUSIVE` (R126). -/
def TrackEntry.holds (inclusive : Bool) (e : TrackEntry) (lba : Int) : Bool :=
  decide ((e.startSector : Int) ≤ lba)
    && (if inclusive then decide (lba ≤ (e.endSector : Int)) else decide (lba < (e.endSector : Int)))

/-- `trackForSector(lba)`: the first entry, in track order, that holds `lba`; none below 0 (R126). -/
def trackForSector (s : State) (lba : Int) : Option TrackEntry :=
  if lba < 0 then none else s.disc.table.find? (fun e => e.holds s.cfg.trackEndInclusive lba)

/-! ### Track bookkeeping -/

/-- Bit `k` of `CONTROL` alone. -/
def controlMask (k : Nat) : Half := 1#16 <<< k

/-- `DM <- b` (R23, R129); no other bit of `CONTROL` changes. -/
def writeDm (b : Bool) (s : State) : State :=
  { s with control :=
      if b then s.control ||| controlMask s.cfg.dmBit else s.control &&& ~~~controlMask s.cfg.dmBit }

/-- The value of `DM` that tells a track's type (R129). -/
def dmOfType (c : Config) (t : TrackType) : Bool :=
  match t with
  | .data => c.dmData
  | .audio => !c.dmData

/-- `setTrack(e.number)` (R129): `track` and `DM` are written only when the track changes. -/
def setTrack (e : TrackEntry) (s : State) : State :=
  if e.number = s.play.track then s
  else writeDm (dmOfType s.cfg e.type) (setTrackNumber e.number s)

/-- `enterLeadOut()` (R130). -/
def enterLeadOut (s : State) : State :=
  setTrackNumber (leadoutNumber s.cfg) (setStatus .leadOut s)

/-- `refreshTrack()` (R131, R317). -/
def refreshTrack (s : State) : State :=
  match trackForSector s s.play.sector with
  | some e => setTrack e s
  | none => if s.play.sector < 0 then setTrackNumber 0 s else enterLeadOut s

/-! ### Error responses -/

/-- `raise ChecksumError` (R155, R311): the status and its nibble, nothing else; the status checksum follows. -/
def raiseChecksumError (s : State) : State := replyStatus .checksumError (setStatus .checksumError s)

/-- The response to an unsupported command or sub-command (R195, R196, R223, R312): the status refresh alone. -/
def unsupported (s : State) : State := refreshStatus s

end Sys2Proof.Machine
end

