-- ==== Sys2Proof/Machine/Flags.lean ====
section
/-!
DEFINITION. The bits the block reads and the flags it computes: `HOCK` and `DM` of `CONTROL` (10_state.md R23), the
block-type flag of a time report (40_resolver.md R128), the data flag of TrackStartTime (30_encoding.md R110).
-/
namespace Sys2Proof.Machine

/-- `HOCK`, bit 2 of `CONTROL` (R23). -/
def hock (s : State) : Bool := s.control.getLsbD 2

/-- `DM`, bit `DM_BIT` of `CONTROL` (R13, R23). -/
def dm (s : State) : Bool := s.control.getLsbD s.cfg.dmBit

/-- `blockFlag()` (R128). -/
def blockFlag (s : State) : Nib :=
  match curEntry s with
  | some e => match e.type with
    | .data => s.cfg.blockFlagData
    | .audio => 0
  | none => 0

/-- What a Request TrackStartTime ORs into `STAT[6]` (R110, R221). -/
def tstartFlag (c : Config) (t : TrackType) : Nib :=
  match t with
  | .data => c.tstFlagData
  | .audio => 0

/-- The gate of the Polling Tick: `HOCK` set and a disc present (R261). -/
def ticking (s : State) : Bool := hock s && s.disc.present

end Sys2Proof.Machine
end

