-- ==== Sys2Proof/Machine/AudioTick.lean ====
section
/-!
DEFINITION. The Audio Tick: the read of one sample pair and the advance along an audio track
(46_audio_tick.md R290 to R296, 20_memory.md R75 to R77).
-/
namespace Sys2Proof.Machine

/-- Four bytes of track data at ascending offsets (R77). -/
structure SampleBytes where
  b0 : Byte
  b1 : Byte
  b2 : Byte
  b3 : Byte
  deriving DecidableEq, Repr

/-- `TrackData(e, off, 4)`: a failure below 0 or beyond `lenBytes` whatever the byte source answers, else what it
answers (R75, R76). -/
def trackData (e : TrackEntry) (off : Int) (io : TrackIo) : Option SampleBytes :=
  if off < 0 ∨ (e.lenBytes : Int) < off + sampleBytes then none
  else match io with
    | .image => some ⟨Memory.read e.data off.toNat, Memory.read e.data (off.toNat + 1),
        Memory.read e.data (off.toNat + 2), Memory.read e.data (off.toNat + 3)⟩
    | .supplied b0 b1 b2 b3 => some ⟨b0, b1, b2, b3⟩
    | .failure => none

/-- `sext_16(hi ++ lo)` (R293). -/
def sext16 (lo hi : Byte) : Int := (hi ++ lo).toInt

/-- The sample pair of a read, silence on a failure (R293, R294, R315). -/
def samplePair (r : Option SampleBytes) : Int × Int :=
  match r with
  | some b => (sext16 b.b0 b.b1, sext16 b.b2 b.b3)
  | none => (0, 0)

/-- The entry the tick plays from: the current one, while Playing and if it is audio (R290, R291). -/
def audioEntry (s : State) : Option TrackEntry :=
  if s.play.status = .playing then (curEntry s).filter (fun e => e.type == .audio) else none

/-- The byte offset of the current sample (R75, R292). -/
def sampleAddress (e : TrackEntry) (s : State) : Int :=
  (e.sectorSize : Int) * (s.play.sector - (e.startSector : Int)) + (s.play.sampleOffset : Int)

/-- The read of the tick: a failure in a sector below the track's start, where a restored state or a seek that Play ends
early can stand, else what the track data answers (R76, R292). -/
def readSample (e : TrackEntry) (io : TrackIo) (s : State) : Option SampleBytes :=
  if s.play.sector < (e.startSector : Int) then none else trackData e (sampleAddress e s) io

/-- The position at the start of a sector. -/
def enterSector (n : Int) (s : State) : State :=
  { s with play := { s.play with sector := n, sampleOffset := 0 } }

/-- `advance()` (R295, R296): a miss is `enterLeadOut()` alone. -/
def advance (s : State) : State :=
  match trackForSector s (s.play.sector + 1) with
  | some e => enterSector (s.play.sector + 1) (setTrack e s)
  | none => enterLeadOut s

/-- The position bookkeeping of a tick that reads: the same after a failed read (R290, R294). -/
def stepSample (e : TrackEntry) (s : State) : State :=
  let t := setSampleOffset (s.play.sampleOffset + sampleBytes) s
  if e.sectorSize ≤ t.play.sampleOffset then advance t else t

/-- `emit sample(L, R)` (R322). -/
def emitSample (p : Int × Int) (s : State) : State := emit (.sample p.1 p.2) s

/-- `AudioTick` (R290); `io` is what the byte source answers if the tick reads. -/
def audioTick (io : TrackIo) (s : State) : State :=
  match audioEntry s with
  | some e => emitSample (samplePair (readSample e io s)) (stepSample e s)
  | none => emitSample (0, 0) s

/-- The range 0 to `SECTOR_SIZE` of `sampleOffset` (R36, R40), where the tick that took the state from `before` to `t`
left LeadOut with an offset that stood at `SECTOR_SIZE` and is 4 above it. No other offset is touched: R290 and R295
keep all the rest in range by themselves. DESIGN CHOICE: notes/assumptions/44.md. -/
def keepOffsetRange (before t : State) : State :=
  if before.cfg.offsetBounded ∧ before.play.sampleOffset = sectorSize ∧ t.play.status = .leadOut
      ∧ t.play.sampleOffset = sectorSize + sampleBytes
  then setSampleOffset sectorSize t else t

/-- The event `AudioTick`: the procedure of R290, and the range of R36 after it. -/
def audioEvent (io : TrackIo) (s : State) : State := keepOffsetRange s (audioTick io s)

end Sys2Proof.Machine
end

