-- ==== Sys2Proof/Machine/DiscEvents.lean ====
section
/-!
DEFINITION. Reset, disc insertion and removal, save and restore (70_reset_and_hazards.md R340 to R351), and the
construction of the Track Table (40_resolver.md R132, R133).
-/
namespace Sys2Proof.Machine

/-! ### Building the Track Table -/

/-- The entry of one track that has number `n` and starts at sector `start` (R132); `acceptable` sees to it that `n` is
below 256, so that no number wraps (R11). -/
def entryOf (n start : Nat) (t : TrackSource) : TrackEntry where
  number := Fin.ofNat 256 n
  type := t.type
  sectorSize := sectorSize
  startSector := start
  endSector := start + t.lenBytes / sectorSize
  lenBytes := t.lenBytes
  data := Memory.ofCells t.lenBytes t.cells

/-- The Track Table of a list of tracks, numbered from `n` and laid out from sector `start` on (R132). -/
def buildTable (n start : Nat) : List TrackSource → List TrackEntry
  | [] => []
  | t :: rest => entryOf n start t :: buildTable (n + 1) (entryOf n start t).endSector rest

/-- A whole number of sectors (R133). -/
def wholeSectors (t : TrackSource) : Bool := t.lenBytes % sectorSize == 0

/-- At least `MIN_TRACK_SECTORS` long (R133). -/
def longEnough (t : TrackSource) : Bool := decide (minTrackSectors ≤ t.lenBytes / sectorSize)

/-- At least one track (R43 (f)), and each with a number that `track` can hold (R11, R34). An image of more tracks is
taken as a load error. DESIGN CHOICE: notes/assumptions/45.md. -/
def countable (ts : List TrackSource) : Bool := decide (1 ≤ ts.length) && decide (ts.length < 256)

/-- The validation of R133 and the count of the tracks; failing it is a load error (R314). -/
def acceptable (kind : DiscKind) (ts : List TrackSource) : Bool :=
  match kind with
  | .iso => countable ts && ts.dropLast.all wholeSectors
  | .binCue => countable ts && ts.all (fun t => wholeSectors t && longEnough t)
  | .unknown => false

/-- The end of the last track, 0 without one (R41, R132). -/
def lastEnd (table : List TrackEntry) : Nat :=
  match table.getLast? with
  | some e => e.endSector
  | none => 0

/-- The disc state of an accepted list of tracks (R132, R345). -/
def loadDisc (kind : DiscKind) (ts : List TrackSource) : Disc where
  present := true
  table := buildTable 1 0 ts
  numTracks := ts.length
  totalEnd := lastEnd (buildTable 1 0 ts)
  kind := kind

/-! ### The events -/

/-- The disc and the playback defaults that go with it; the register file is not touched (R345, R348). -/
def setDisc (d : Disc) (st : Status) (s : State) : State := { s with disc := d, play := .defaults st }

/-- A successful insertion (R345). -/
def insertOk (kind : DiscKind) (ts : List TrackSource) (s : State) : State :=
  emit .insertOk (setDisc (loadDisc kind ts) .stopped s)

/-- A failed insertion: the prior state intact (R314, R346). -/
def insertFailed (s : State) : State := emit .loadFailure s

/-- `InsertDisc(payload)` (R345, R346), refused over a disc that is present (R347). -/
def insertDisc (p : DiscPayload) (s : State) : Result :=
  if s.disc.present then .refused .discAlreadyPresent
  else match p with
    | .image kind ts => .next (if acceptable kind ts then insertOk kind ts s else insertFailed s)
    | .loadError => .next (insertFailed s)

/-- `Eject` (R348). -/
def eject (s : State) : State := setDisc .none .noDisc s

/-- The saved surface (R350). -/
def savedOf (s : State) : Saved := ⟨s.cmd, s.stat, s.control, s.play⟩

/-- `SaveState` (R350): a copy, nothing changes. -/
def saveState (s : State) : State := emit (.saved (savedOf s)) s

/-- `RestoreState(v)` (R351): verbatim, nothing recomputed, the disc state as it is. -/
def restoreState (v : Saved) (s : State) : State :=
  { s with cmd := v.cmd, stat := v.stat, control := v.control, play := v.play }

/-- `Reset` (R47, R340): every state element of R20; what the model adds to the state stays. -/
def resetBlock (s : State) : State :=
  { s with cmd := powerOnCmd, stat := powerOnStat s.cfg, control := powerOnControl,
           play := .defaults .noDisc, disc := .none }

end Sys2Proof.Machine
end

