-- ==== Sys2Proof/Machine/Seek.lean ====
section
/-!
DEFINITION. SeekPlay and SeekPause (44_commands_seek.md). The status checksum is written after each
(41_latch_checksum_dispatch.md R158).
-/
namespace Sys2Proof.Machine

/-- The playback state a seek leaves: target status `st`, sector at the target at once, latency from the old sector
(R243, R244). `track` and `tocReadDone` are not written. -/
def seekPlayback (c : Config) (st : Status) (target : Int) (p : Playback) : Playback :=
  { p with
    latency := seekLatency c p.latency (seekDist c target p.sector)
    sector := target
    sampleOffset := 0
    pendingStatus := st
    status := .seeking }

/-- A seek with its reply, the invalidate pattern (R105, R244). -/
def seek (st : Status) (target : Int) (s : State) : State :=
  replyPayload selInvalid 0 0 0 0 0 0 0
    (replyStatus .seeking { s with play := seekPlayback s.cfg st target s.play })

/-- SeekPlay (R241, R244, R247). -/
def execSeekPlay (m10 m1 s10 s1 f10 f1 : Nib) (s : State) : Result :=
  .next (seek .playing (seekTarget m10 m1 s10 s1 f10 f1) s)

/-- SeekPause (R241, R244, R248). -/
def execSeekPause (m10 m1 s10 s1 f10 f1 : Nib) (s : State) : Result :=
  .next (seek .paused (seekTarget m10 m1 s10 s1 f10 f1) s)

end Sys2Proof.Machine
end

