-- ==== Sys2Proof/Machine/Request.lean ====
section
/-!
DEFINITION. The Request command and its sub-commands, and the three report builders it shares with DriveStatus
(43_commands_request.md). The status checksum is written after each (41_latch_checksum_dispatch.md R158).
-/
namespace Sys2Proof.Machine

/-- `buildAbs()` (R213). A sector below the lead-in has no time code (R122). -/
def buildAbs (s : State) : Result :=
  match toMsf s.play.sector with
  | some t => .next (replyTime (s.cfg.reqCode .absoluteTime) t (blockFlag s) s)
  | none => .refused (.timeCodeBelowLeadIn s.play.sector)

/-- The sector that relative time is counted from: the start of the current track, or 0 (R214). -/
def relBase (s : State) : Nat :=
  match curEntry s with
  | some e => e.startSector
  | none => 0

/-- `buildRel()` (R214). -/
def buildRel (s : State) : State :=
  replyTime (s.cfg.reqCode .relativeTime) (msfRaw (s.play.sector - (relBase s : Int)).natAbs) (blockFlag s) s

/-- The two nibbles a track number is reported as (R107, R215). -/
def trackDigits (s : State) : Nib × Nib :=
  if s.play.track = leadoutNumber s.cfg then
    (s.cfg.leadoutTrack.extractLsb' 4 4, s.cfg.leadoutTrack.extractLsb' 0 4)
  else (bcdTens s.play.track.val, bcdUnits s.play.track.val)

/-- `buildTrack()` (R215). -/
def buildTrack (s : State) : State :=
  replyPayload (s.cfg.reqCode .trackInformation) (trackDigits s).1 (trackDigits s).2 0 0 0 0 0 s

/-- Request AbsoluteTime (R210, R216). -/
def execRequestAbs (s : State) : Result := buildAbs (refreshStatus s)

/-- Request RelativeTime (R210, R217). -/
def execRequestRel (s : State) : Result := .next (buildRel (refreshStatus s))

/-- Request TrackInformation (R210, R218). -/
def execRequestTrack (s : State) : Result := .next (buildTrack (refreshStatus s))

/-- Request DiscCompletionTime (R210, R219): `toMSF(totalEnd)`, lead-in included. -/
def execRequestTotal (s : State) : Result :=
  .next (replyTime (s.cfg.reqCode .discCompletionTime) (msfRaw (s.disc.totalEnd + leadIn)) 0 (refreshStatus s))

/-- The first track number: 1 on a disc with tracks, else 0 (R220). -/
def firstTrack (d : Disc) : Nat := if 1 ≤ d.numTracks then 1 else 0

/-- Request DiscTracks (R210, R220). -/
def execRequestTracks (s : State) : Result :=
  .next (replyPayload (s.cfg.reqCode .discTracks) (bcdTens (firstTrack s.disc)) (bcdUnits (firstTrack s.disc))
    (bcdTens s.disc.numTracks) (bcdUnits s.disc.numTracks) 0 0 0 (refreshStatus s))

/-- The payload for a track that exists: its start time, the data flag in `STAT[6]`, its units digit (R221). -/
def replyTrackStart (t : Nat) (e : TrackEntry) (s : State) : State :=
  let c := msfRaw (e.startSector + leadIn)
  replyPayload (s.cfg.reqCode .trackStartTime) (bcdTens c.m) (bcdUnits c.m) (bcdTens c.s) (bcdUnits c.s)
    (bcdTens c.f ||| tstartFlag s.cfg e.type) (bcdUnits c.f) (bcdUnits t) s

/-- The payload for a track that does not exist: seven free nibbles, a fresh draw each time (R221, U3). -/
def replyFreePayload (s : State) : State :=
  let v := Config.freePayload s.draws
  { replyPayload (s.cfg.reqCode .trackStartTime) (v.extractLsb' 24 4) (v.extractLsb' 20 4) (v.extractLsb' 16 4)
      (v.extractLsb' 12 4) (v.extractLsb' 8 4) (v.extractLsb' 4 4) (v.extractLsb' 0 4) s with draws := s.draws + 1 }

/-- Request TrackStartTime for track `10*t10 + t1` (R210, R221). -/
def execRequestTstart (t10 t1 : Nib) (s : State) : Result :=
  match trackEntry s.disc (pairValue t10 t1) with
  | some e => .next (replyTrackStart (pairValue t10 t1) e (refreshStatus s))
  | none => .next (replyFreePayload (refreshStatus s))

/-- Request ErrorInformation (R210, R222). -/
def execRequestError (s : State) : Result :=
  .next (replyPayload (s.cfg.reqCode .errorInformation) 0 0 0 0 0 0 0 (refreshStatus s))

/-- Request with sub-command 7 (R223). -/
def execRequestUnassigned7 (s : State) : Result := .next (unsupported s)

/-- Request with a sub-command from 8 to 15 (R223). -/
def execRequestUnassigned8F (_sub : Nib) (s : State) : Result := .next (unsupported s)

end Sys2Proof.Machine
end

