-- ==== Sys2Proof/Machine/Simple.lean ====
section
/-!
DEFINITION. The commands without operands and the unassigned command codes (42_commands_simple.md). The status
checksum is written after each (41_latch_checksum_dispatch.md R158).
-/
namespace Sys2Proof.Machine

/-- The sub-report that DriveStatus repeats, chosen by the selector `STAT[1]` (R180, R181, R182):
`REQ_CODE` names the reports, as R102 says: notes/assumptions/3.md. -/
def repeatReport (s : State) : Result :=
  if s.stat.n1 = s.cfg.reqCode .absoluteTime then buildAbs s
  else if s.stat.n1 = s.cfg.reqCode .relativeTime then .next (buildRel s)
  else if s.stat.n1 = s.cfg.reqCode .trackInformation then .next (buildTrack s)
  else if s.stat.n1 = selInvalid ∧ s.play.latency = 0 then .next (buildTrack s)
  else .next s

/-- DriveStatus (R180): nothing while more than `DS_LAT_MAX` ticks of latency remain. -/
def execDriveStatus (s : State) : Result :=
  if s.play.latency ≤ dsLatMax then repeatReport (refreshStatus s) else .next s

/-- `STAT[1..8] <- 0` (R104). -/
def clearPayload (s : State) : State := replyPayload 0 0 0 0 0 0 0 0 s

/-- The effect that the Stop and DoorClose rows share (R183, R190): the machine reads the TOC or has no disc, the
reply says Stopped. -/
def closeTray (s : State) : State :=
  clearPayload (replyStatus .stopped (setStatus (if s.disc.present then .readingToc else .noDisc) s))

/-- Enter a status and report it (R185, R186, R187, R192, R193). -/
def enterStatus (st : Status) (s : State) : State := replyStatus st (setStatus st s)

/-- Stop (R183). -/
def execStop (s : State) : Result := .next (closeTray s)

/-- DoorClose (R190). -/
def execDoorClose (s : State) : Result := .next (closeTray s)

/-- DoorOpen (R191). -/
def execDoorOpen (s : State) : Result := .next (clearPayload (enterStatus .doorOpened s))

/-- Pause (R185). -/
def execPause (s : State) : Result := .next (enterStatus .paused s)

/-- Play (R186). -/
def execPlay (s : State) : Result := .next (enterStatus .playing s)

/-- TrackSkip (R187): the effect of Pause, no track or sector moves. -/
def execTrackSkip (s : State) : Result := .next (enterStatus .paused s)

/-- Forward (R192): the row's effect, no scanning takes place. -/
def execForward (s : State) : Result := .next (enterStatus .scanning s)

/-- Reverse (R193): as Forward. -/
def execReverse (s : State) : Result := .next (enterStatus .scanning s)

/-- TrackCue (R195): an unsupported command. -/
def execTrackCue (s : State) : Result := .next (unsupported s)

/-- Command code 0x5 (R196). -/
def execUnassigned5 (s : State) : Result := .next (unsupported s)

/-- Command code 0xE (R196). -/
def execUnassignedE (s : State) : Result := .next (unsupported s)

/-- Command code 0xF (R196). -/
def execUnassignedF (s : State) : Result := .next (unsupported s)

end Sys2Proof.Machine
end

