-- ==== Sys2Proof/Machine/Dispatch.lean ====
section
/-!
DEFINITION. `dispatch` (41_latch_checksum_dispatch.md R157): one arm per row of spec/opcode_table.json.
-/
namespace Sys2Proof.Machine

def exec (i : Instr) (s : State) : Host.Outcome State Fault Refusal :=
  match i with
  | .driveStatus => Sys2Proof.Machine.execDriveStatus s
  | .stop => Sys2Proof.Machine.execStop s
  | .requestAbs => Sys2Proof.Machine.execRequestAbs s
  | .requestRel => Sys2Proof.Machine.execRequestRel s
  | .requestTrack => Sys2Proof.Machine.execRequestTrack s
  | .requestTotal => Sys2Proof.Machine.execRequestTotal s
  | .requestTracks => Sys2Proof.Machine.execRequestTracks s
  | .requestTstart t10 t1 => Sys2Proof.Machine.execRequestTstart t10 t1 s
  | .requestError => Sys2Proof.Machine.execRequestError s
  | .requestUnassigned7 => Sys2Proof.Machine.execRequestUnassigned7 s
  | .requestUnassigned8F sub => Sys2Proof.Machine.execRequestUnassigned8F sub s
  | .seekPlay m10 m1 s10 s1 f10 f1 => Sys2Proof.Machine.execSeekPlay m10 m1 s10 s1 f10 f1 s
  | .seekPause m10 m1 s10 s1 f10 f1 => Sys2Proof.Machine.execSeekPause m10 m1 s10 s1 f10 f1 s
  | .unassigned5 => Sys2Proof.Machine.execUnassigned5 s
  | .pause => Sys2Proof.Machine.execPause s
  | .play => Sys2Proof.Machine.execPlay s
  | .forward => Sys2Proof.Machine.execForward s
  | .reverse => Sys2Proof.Machine.execReverse s
  | .trackSkip => Sys2Proof.Machine.execTrackSkip s
  | .trackCue => Sys2Proof.Machine.execTrackCue s
  | .doorClose => Sys2Proof.Machine.execDoorClose s
  | .doorOpen => Sys2Proof.Machine.execDoorOpen s
  | .unassignedE => Sys2Proof.Machine.execUnassignedE s
  | .unassignedF => Sys2Proof.Machine.execUnassignedF s

end Sys2Proof.Machine
end

