-- ==== Sys2Proof/Machine/Latch.lean ====
section
/-!
DEFINITION. The command latch and the bus accesses: `execute` (41_latch_checksum_dispatch.md R154, R155, R158) and the
register window (20_memory.md R61 to R73).
-/
namespace Sys2Proof.Machine

/-- What the buffered packet does before the status checksum is written: the checksum error response, or the
command (R155). -/
def runPacket (s : State) : Result :=
  match decode s.cfg s.cmd with
  | .error .badChecksum => .next (raiseChecksumError s)
  | .ok i => exec i s

/-- `execute()` (R155): the packet, then on every path the status checksum (R158). -/
def execute (s : State) : Result := andThen (runPacket s) (fun t => .next (sealReply t))

/-! ### The register map (R61) -/

/-- `OFF_STAT0` (R61). -/
def offStat0 (c : Config) : Nat := c.offComm0

/-- `OFF_CMD0` (R61). -/
def offCmd0 (c : Config) : Nat := c.offComm0 + 10

/-- The byte offset of `CMD[9]`, the trigger (R62, R154). -/
def offTrigger (c : Config) : Nat := offCmd0 c + 9

/-- What stands at a byte offset of the window. -/
inductive Target where
  | stat (i : Fin 10)
  | cmd (i : Fin 10)
  | controlHigh
  | controlLow
  | fader
  | outside
  deriving DecidableEq, Repr

/-- The map of R61, in the order of R70. -/
def target (c : Config) (a : Nat) : Target :=
  if h : offStat0 c ≤ a ∧ a - offStat0 c < 10 then .stat ⟨a - offStat0 c, h.2⟩
  else if h : offCmd0 c ≤ a ∧ a - offCmd0 c < 10 then .cmd ⟨a - offCmd0 c, h.2⟩
  else if a = c.offControl then .controlHigh
  else if a = c.offControl + 1 then .controlLow
  else if a = c.offFader ∨ a = c.offFader + 1 then .fader
  else .outside

/-! ### Byte accesses -/

/-- `CONTROL` after a host write of `new`: every bit but `DM` (R23, R67). -/
def hostControl (c : Config) (old new : Half) : Half :=
  (new &&& ~~~controlMask c.dmBit) ||| (old &&& controlMask c.dmBit)

/-- A host write to one byte of `CONTROL`; the word is what that write would leave if no bit were kept (R67). -/
def writeControl (new : Half) (s : State) : State :=
  { s with control := hostControl s.cfg s.control new }

/-- `WriteByte(a, b)` on `CMD[i]`: store the low nibble, and execute after a write to `CMD[9]` (R66, R154). -/
def writeCmd (i : Fin 10) (b : Byte) (s : State) : Result :=
  let t := { s with cmd := Bank.set s.cmd i (nibbleOfByte b) }
  if i = 9 then execute t else .next t

/-- `WriteByte(a, b)` (R66 to R69). -/
def writeByte (a : Nat) (b : Byte) (s : State) : Result :=
  match target s.cfg a with
  | .stat _ => .next s
  | .cmd i => writeCmd i b s
  | .controlHigh => .next (writeControl (b ++ s.control.extractLsb' 0 8) s)
  | .controlLow => .next (writeControl (s.control.extractLsb' 8 8 ++ b) s)
  | .fader => .next s
  | .outside => .next s

/-- `ReadByte(a)` (R70); none outside the block (U14). -/
def readByte (s : State) (a : Nat) : Option Byte :=
  match target s.cfg a with
  | .stat i => some ((Bank.get s.stat i).setWidth 8)
  | .cmd i => some ((Bank.get s.cmd i).setWidth 8)
  | .controlHigh => some (s.control.extractLsb' 8 8)
  | .controlLow => some (s.control.extractLsb' 0 8)
  | .fader => some 0
  | .outside => none

/-! ### Byte, word and long accesses -/

/-- How many bytes an access has (R64). -/
def Size.bytes : Size → Nat
  | .byte => 1
  | .word => 2
  | .long => 4

/-- Whether an access is one the spec refuses: a word or long access at an odd offset (R65). -/
def misaligned (off : Nat) (n : Size) : Bool := n != .byte && off % 2 == 1

/-- The byte writes that a write of `n` bytes is, most significant byte first, at ascending offsets (R63, R64). -/
def busBytes (off : Nat) (n : Size) (v : Long) : List (Nat × Byte) :=
  (List.range n.bytes).map (fun k => (off + k, v.extractLsb' (8 * (n.bytes - k - 1)) 8))

/-- Byte writes one after the other, each complete before the next (R64). -/
def writeBytes : List (Nat × Byte) → State → Result
  | [], s => .next s
  | (a, b) :: rest, s => andThen (writeByte a b s) (writeBytes rest)

/-- `BusWrite(off, n, v)` (R64, R65). -/
def busWrite (off : Nat) (n : Size) (v : Long) (s : State) : Result :=
  if misaligned off n then .refused (.misalignedAccess off) else writeBytes (busBytes off n v) s

/-- The bytes of `BusRead(off, n)`, lowest offset first (R71). -/
def busData (s : State) (off : Nat) (n : Size) : List (Option Byte) :=
  (List.range n.bytes).map (fun k => readByte s (off + k))

/-- `BusRead(off, n)` (R65, R71, R72): no side effect on the block. -/
def busRead (off : Nat) (n : Size) (s : State) : Result :=
  if misaligned off n then .refused (.misalignedAccess off) else .next (emit (.readData (busData s off n)) s)

/-! ### Sending a packet (R112, R360) -/

/-- The byte write to `CMD[9]` that a host ends a packet with: it stores the checksum nibble of the packet. -/
def triggerWrite (c : Config) (k : Nib) : Event := .busWrite (offTrigger c) .byte (k.setWidth 32)

/-- The state in which a host has written nibbles 0 to 8 of the packet and is about to write its checksum nibble, the
right one for those nine: the very next step executes the command they name. -/
def armPacket (p : Bank) (s : State) : State :=
  { s with cmd := { p with n9 := s.cmd.n9 }, inputs := triggerWrite s.cfg (chk p) :: s.inputs }

end Sys2Proof.Machine
end

