-- ==== Sys2Proof/Machine/PollTick.lean ====
section
/-!
DEFINITION. The Polling Tick and the latency timer, one definition per arm (45_polling_tick.md R260 to R268).
-/
namespace Sys2Proof.Machine

/-- The sector number handed to the sector decoder: the current one while reading, else 0 (R260, R321). -/
def cdcSectorOf (s : State) : Int :=
  if hock s && s.disc.present && s.play.status == .playing then s.play.sector else 0

/-- The two outputs of a tick, from the state before the tick changes it (R260, R320, R321). -/
def pollOutputs (s : State) : List Output :=
  .cdcSector (cdcSectorOf s) :: (if hock s then [.irq] else [])

/-- Stopped (R262). -/
def tickStopped (s : State) : State :=
  { s with play := { s.play with status := .readingToc, sampleOffset := 0, track := 0, sector := 0 } }

/-- The end of the TOC read (R263). -/
def finishToc (s : State) : State :=
  refreshTrack { s with play := { s.play with status := .paused, tocReadDone := true } }

/-- ReadingTOC: advance, then test the new sector against the lead-in boundary (R263). -/
def tickReadingToc (s : State) : State :=
  let t := setSector (s.play.sector + 1) s
  if t.play.sector > (leadIn : Int) then finishToc t else t

/-- The end of a seek (R264). -/
def finishSeek (s : State) : State := refreshTrack (setStatus s.play.pendingStatus s)

/-- Seeking: the latency timer (R264). Natural-number subtraction stops at 0, as the rule's guard says. -/
def tickSeeking (s : State) : State :=
  let t := { s with play := { s.play with latency := s.play.latency - 1 } }
  if t.play.latency = 0 then finishSeek t else t

/-- Whether the Polling Tick moves the sector: a data track or no current track (R266). -/
def pollAdvances (s : State) : Bool :=
  match curEntry s with
  | none => true
  | some e => e.type == .data

/-- The end test of R266. -/
def endTest (s : State) : State :=
  if s.play.status = .playing ∧ s.play.sector ≥ (s.disc.totalEnd : Int) then enterLeadOut s else s

/-- Playing (R266). -/
def tickPlaying (s : State) : State :=
  endTest (if pollAdvances s then refreshTrack (setSector (s.play.sector + 1) s) else s)

/-- The arm that the status selects (R260 to R268). -/
def pollArm (s : State) : State :=
  match s.play.status with
  | .stopped => tickStopped s
  | .readingToc => tickReadingToc s
  | .seeking => tickSeeking s
  | .playing => tickPlaying s
  | .noDisc => s
  | .paused => s
  | .leadOut => s
  | .scanning => s
  | .doorOpened => s
  | .checksumError => s
  | .commandError => s
  | .functionError => s
  | .tracking => s
  | .leadIn => s
  | .trayMoving => s
  | .test => s

/-- `PollTick` (R260): the outputs on every tick, the arm only while ticking (R261). -/
def pollTick (s : State) : State :=
  let t := { s with outputs := s.outputs ++ pollOutputs s }
  if ticking t then pollArm t else t

end Sys2Proof.Machine
end

