-- ==== Sys2Proof/Machine/Events.lean ====
section
/-!
DEFINITION. One input event, processed to completion (00_scope.md R3, 20_memory.md R80).
-/
namespace Sys2Proof.Machine

/-- The effect of an event on the block (R3). -/
def runEvent (e : Event) (s : State) : Result :=
  match e with
  | .busWrite off n v => busWrite off n v s
  | .busRead off n => busRead off n s
  | .pollTick => .next (pollTick s)
  | .audioTick io => .next (audioEvent io s)
  | .insertDisc p => insertDisc p s
  | .eject => .next (eject s)
  | .saveState => .next (saveState s)
  | .restoreState v => .next (restoreState v s)
  | .reset => .next (resetBlock s)

/-- The state as an event finds it: the event is taken, and what the step before emitted is gone (R45). -/
def takeEvent (rest : List Event) (s : State) : State := { s with inputs := rest, outputs := [] }

/-- One step: the next event that waits, or, as the block never initiates an event (R3), nothing but that the signals
of the step before are gone. -/
def stepOnce (s : State) : Result :=
  match s.inputs with
  | [] => .next (takeEvent [] s)
  | e :: rest => runEvent e (takeEvent rest s)

end Sys2Proof.Machine
end

