-- ==== Sys2Proof/Machine/Step.lean ====
section
/-!
DEFINITION. The step of the machine, and the state in which a given packet is the next thing to run.
-/
namespace Sys2Proof.Machine

/-- One step of the block (R3). -/
def step (s : State) : Host.Outcome State Fault Refusal := stepOnce s

/-- The state whose next step executes the packet numbered `w` (R90): the host has written nibbles 0 to 8 of it and
its next event is the trigger write with the checksum nibble that validates them. The table's field `k` of `w` is
that nibble's place and is filled in, since a packet with a wrong one is not decoded at all (R91);
notes/assumptions/35.md. -/
def State.withFetchWord (s : State) (nbits w : Nat) : State :=
  armPacket (packetOfNat (w % 2 ^ nbits)) s

end Sys2Proof.Machine
end

