-- ==== Sys2Proof/Safety.lean ====
section
/-!
DEFINITION. What claims call a good state and a good host: the Track Table invariants (10_state.md R41, R43), the ranges
of the playback state (R31, R40), the valid status reply (41_latch_checksum_dispatch.md R158), and the events whose
refusal the spec asks for (20_memory.md R65, 70_reset_and_hazards.md R347, R351).
-/
namespace Sys2Proof.Machine

/-! ### The disc state -/

/-- Entries numbered from `n` and contiguous from sector `start` on, each as long as its bytes say, its data in
canonical form (R43 (a) to (d)). -/
def tableFrom : Nat → Nat → List TrackEntry → Bool
  | _, _, [] => true
  | n, start, e :: rest =>
    e.number.val == n && e.sectorSize == sectorSize && e.startSector == start
      && e.endSector == start + e.lenBytes / e.sectorSize && Memory.wf e.data
      && tableFrom (n + 1) e.endSector rest

/-- A track of whole sectors (R43 (g)). -/
def entryWhole (e : TrackEntry) : Bool := e.lenBytes % e.sectorSize == 0

/-- The length rules of the image kind (R41, R43 (g)). -/
def sizesOk (kind : DiscKind) (table : List TrackEntry) : Bool :=
  match kind with
  | .iso => table.dropLast.all entryWhole
  | .binCue => table.all (fun e => entryWhole e && decide (e.startSector + minTrackSectors ≤ e.endSector))
  | .unknown => false

/-- The disc state is what R41 and R43 say: empty without a disc, else a table with every invariant. -/
def Disc.ok (d : Disc) : Bool :=
  if d.present then
    d.numTracks == d.table.length && decide (1 ≤ d.numTracks) && tableFrom 1 0 d.table
      && d.totalEnd == lastEnd d.table && sizesOk d.kind d.table
  else d == Disc.none

/-! ### The playback state -/

/-- The statuses that the rules can produce (R31). -/
def statusProduced : Status → Bool
  | .stopped | .playing | .seeking | .scanning | .paused | .doorOpened | .checksumError
  | .readingToc | .noDisc | .leadOut => true
  | .commandError | .functionError | .tracking | .leadIn | .trayMoving | .test => false

/-- What a seek, or the reset to defaults, leaves in `pendingStatus` (R38). -/
def statusPendable : Status → Bool
  | .stopped | .playing | .paused => true
  | _ => false

/-- The current track is none, a track of the disc, or the lead-out sentinel (R34, R40). -/
def trackInRange (c : Config) (d : Disc) (n : TrackNumber) : Bool :=
  decide (n.val ≤ d.numTracks) || n == leadoutNumber c

/-- Every later sector is past the end of the disc (R126). -/
def pastEnd (c : Config) (d : Disc) (sector : Int) : Bool :=
  decide (0 ≤ sector) && decide ((d.totalEnd : Int) ≤ if c.trackEndInclusive then sector else sector + 1)

/-- Where `sampleOffset` can stand: below the sector size (R36); at it, where an Audio Tick has found no next sector
(R296), and on a track again only from sector 0 up. This is the bound of R36 and R40; where `offsetBounded` is clear,
also one sample past it, past the end of the disc and on the sentinel (R290, notes/assumptions/44.md). -/
def Playback.offsetOk (c : Config) (d : Disc) (p : Playback) : Bool :=
  p.sampleOffset % sampleBytes == 0
    && (decide (p.sampleOffset < sectorSize)
      || (p.sampleOffset == sectorSize
        && (p.track == 0 || p.track == leadoutNumber c || decide (0 ≤ p.sector)))
      || (!c.offsetBounded && p.sampleOffset == sectorSize + sampleBytes
        && p.track == leadoutNumber c && p.status != .seeking && pastEnd c d p.sector))

/-- The ranges of R40, the statuses of R31, and R246 (d); the bound of `sampleOffset` stands in `offsetOk`. -/
def Playback.ok (c : Config) (d : Disc) (p : Playback) : Bool :=
  decide (-(leadIn : Int) ≤ p.sector) && p.sampleOffset % sampleBytes == 0
    && trackInRange c d p.track && statusProduced p.status && statusPendable p.pendingStatus
    && (p.status != .seeking || decide (1 ≤ p.latency))

/-! ### States and hosts -/

/-- The parameters, the disc and the playback state are good. -/
def State.ok (s : State) : Bool := s.cfg.wf && s.disc.ok && s.play.ok s.cfg s.disc

/-- Any restored state the event brings has a playback state in range (R351: a restored state need not be reachable). -/
def Event.restoresOk (c : Config) (d : Disc) (e : Event) : Bool :=
  match e with
  | .restoreState v => v.play.ok c d
  | _ => true

/-- Any restored state the event brings has its sample offset where `offsetOk` says (R351). -/
def Event.restoresOffset (c : Config) (d : Disc) (e : Event) : Bool :=
  match e with
  | .restoreState v => v.play.offsetOk c d
  | _ => true

/-- Any restored state the event brings has a status bank with a valid checksum. -/
def Event.restoresValid (e : Event) : Bool :=
  match e with
  | .restoreState v => validate v.stat
  | _ => true

/-- The event is none that the spec asks a model to refuse in any good state (R65, R347). -/
def Event.acceptable (s : State) (e : Event) : Bool :=
  match e with
  | .busWrite off n _ => !misaligned off n
  | .busRead off n => !misaligned off n
  | .insertDisc _ => !s.disc.present
  | _ => true

/-! ### Which command an event executes -/

/-- Whether a bus access of `n` bytes at `off` covers the byte of `CMD[9]` (R154). -/
def coversTrigger (c : Config) (off : Nat) (n : Size) : Bool :=
  decide (off ≤ offTrigger c) && decide (offTrigger c < off + n.bytes)

/-- The command bank after a byte write (R66). -/
def storeNibble (c : Config) (a : Nat) (b : Byte) (p : Bank) : Bank :=
  match target c a with
  | .cmd i => Bank.set p i (nibbleOfByte b)
  | .stat _ => p
  | .controlHigh => p
  | .controlLow => p
  | .fader => p
  | .outside => p

/-- The packet buffered when byte writes reach the trigger: the bank with the bytes up to it stored (R73). -/
def packetAt (c : Config) : List (Nat × Byte) → Bank → Bank
  | [], p => p
  | (a, b) :: rest, p =>
    if a = offTrigger c then storeNibble c a b p else packetAt c rest (storeNibble c a b p)

/-- The command that the event executes: a permitted bus write over the trigger executes the one that the packet then
buffered names, if its checksum is right (R65, R154, R155). -/
def Event.executes (s : State) (e : Event) : Option Instr :=
  match e with
  | .busWrite off n v =>
    if !misaligned off n && coversTrigger s.cfg off n then
      match decode s.cfg (packetAt s.cfg (busBytes off n v) s.cmd) with
      | .ok i => some i
      | .error .badChecksum => none
    else none
  | .busRead _ _ => none
  | .pollTick => none
  | .audioTick _ => none
  | .insertDisc _ => none
  | .eject => none
  | .saveState => none
  | .restoreState _ => none
  | .reset => none

/-- Two states that hold the same block: the state of R20, the parameters and the draws; what waits outside and what
was emitted may differ. -/
def sameBlock (s t : State) : Prop :=
  s.cmd = t.cmd ∧ s.stat = t.stat ∧ s.control = t.control ∧ s.play = t.play ∧ s.disc = t.disc
    ∧ s.cfg = t.cfg ∧ s.draws = t.draws

end Sys2Proof.Machine
end

