-- ==== Sys2Proof/Certificates/Slice0/Obligations.lean ====
section
/-!
DEFINITION. What is claimed of the machine, stated from the numbered rules of spec/. Each docstring names the rules;
OBLIGATIONS.json lists the statements. Where a clause rests on a choice (a decision D<n> of 92_eei_decisions.md or a log
entry), the docstring names it.
-/
open Sys2Proof Sys2Proof.Machine

/-! ### Packets -/

/-- R90 to R99, R112: for every injective code map, decoding the packet of any well-formed command gives that command,
with every operand nibble at every value. Which row an unassigned code stands for when the codes are not the default
ones is log 3; the places of the operands are logs 14 and 15; that ignored nibbles are sent as 0 is log 36. -/
def Obligations.DecodeEncodeRoundTrip : Prop :=
  ∀ (c : Config) (i : Instr), c.wf = true → i.wf c = true → decode c (encode c i) = .ok i

/-- R91 to R97, R99, R155, R156: a packet with a wrong checksum is not decoded; every other packet is decoded to a
well-formed command whose own packet has the same code and, for a Request, the same sub-command; the nibbles that a
format does not name take no part; each code names its command and each sub-code its Request, with the nibbles of the
format as operands in their order; and the codes that are left name unsupported rows. The codes are parameters (D2,
D3); which unsupported row a code left over names is log 3; the order of a seek's digits in nibbles 2 to 7 is decision
D13 (log 14), and that TrackStartTime's track digits are nibbles 4 and 5 is decision D14 (log 15). -/
def Obligations.EveryPacketHasOneReading : Prop :=
  (∀ (c : Config) (p : Bank), validate p = false → decode c p = .error .badChecksum)
  ∧ (∀ (c : Config) (p : Bank), c.wf = true → validate p = true →
      ∃ i, decode c p = .ok i ∧ i.wf c = true ∧ (encode c i).n0 = p.n0
        ∧ (p.n0 = c.cmdCode .request → (encode c i).n3 = p.n3))
  ∧ (∀ (c : Config) (p q : Bank), p.n0 = q.n0 → p.n2 = q.n2 → p.n3 = q.n3 → p.n4 = q.n4 → p.n5 = q.n5 → p.n6 = q.n6 →
      p.n7 = q.n7 → decodeFields c p = decodeFields c q)
  ∧ (∀ (c : Config) (p q : Bank), p.n0 = q.n0 → p.n0 ≠ c.cmdCode .request → p.n0 ≠ c.cmdCode .seekPlay →
      p.n0 ≠ c.cmdCode .seekPause → decodeFields c p = decodeFields c q)
  ∧ (∀ (c : Config) (p q : Bank), c.wf = true → p.n0 = c.cmdCode .request → q.n0 = c.cmdCode .request → p.n3 = q.n3 →
      p.n4 = q.n4 → p.n5 = q.n5 → decodeFields c p = decodeFields c q)
  ∧ (∀ (c : Config) (p : Bank), c.wf = true → validate p = true →
      (p.n0 = c.cmdCode .driveStatus → decode c p = .ok .driveStatus)
      ∧ (p.n0 = c.cmdCode .stop → decode c p = .ok .stop)
      ∧ (p.n0 = c.cmdCode .seekPlay → decode c p = .ok (.seekPlay p.n2 p.n3 p.n4 p.n5 p.n6 p.n7))
      ∧ (p.n0 = c.cmdCode .seekPause → decode c p = .ok (.seekPause p.n2 p.n3 p.n4 p.n5 p.n6 p.n7))
      ∧ (p.n0 = c.cmdCode .pause → decode c p = .ok .pause)
      ∧ (p.n0 = c.cmdCode .play → decode c p = .ok .play)
      ∧ (p.n0 = c.cmdCode .forward → decode c p = .ok .forward)
      ∧ (p.n0 = c.cmdCode .reverse → decode c p = .ok .reverse)
      ∧ (p.n0 = c.cmdCode .trackSkip → decode c p = .ok .trackSkip)
      ∧ (p.n0 = c.cmdCode .trackCue → decode c p = .ok .trackCue)
      ∧ (p.n0 = c.cmdCode .doorClose → decode c p = .ok .doorClose)
      ∧ (p.n0 = c.cmdCode .doorOpen → decode c p = .ok .doorOpen)
      ∧ ((∀ x, p.n0 ≠ c.cmdCode x) →
          decode c p = .ok .unassigned5 ∨ decode c p = .ok .unassignedE ∨ decode c p = .ok .unassignedF))
  ∧ (∀ (c : Config) (p : Bank), c.wf = true → validate p = true → p.n0 = c.cmdCode .request →
      (p.n3 = c.reqCode .absoluteTime → decode c p = .ok .requestAbs)
      ∧ (p.n3 = c.reqCode .relativeTime → decode c p = .ok .requestRel)
      ∧ (p.n3 = c.reqCode .trackInformation → decode c p = .ok .requestTrack)
      ∧ (p.n3 = c.reqCode .discCompletionTime → decode c p = .ok .requestTotal)
      ∧ (p.n3 = c.reqCode .discTracks → decode c p = .ok .requestTracks)
      ∧ (p.n3 = c.reqCode .trackStartTime → decode c p = .ok (.requestTstart p.n4 p.n5))
      ∧ (p.n3 = c.reqCode .errorInformation → decode c p = .ok .requestError)
      ∧ ((∀ x, p.n3 ≠ c.reqCode x) →
          decode c p = .ok .requestUnassigned7 ∨ decode c p = .ok (.requestUnassigned8F p.n3)))

/-- R90, R112: packets written out with the default codes name the commands they stand for. The default code values
(TrackCue = 0xB among them) are PRESUMED, log 3 (decisions D2, D3), and the place of the track digits of
TrackStartTime is log 15 (decision D14), the order of a seek's digits in nibbles 2 to 7, minutes first and tens first, is
log 14 (decision D13): this is a check of those choices. -/
def Obligations.PacketsOfTheTableDecode : Prop :=
  decode .default (packetOfNat 0x000000000F) = .ok .driveStatus
  ∧ decode .default (packetOfNat 0x100000000E) = .ok .stop
  ∧ decode .default (packetOfNat 0x2005020006) = .ok (.requestTstart 0 2)
  ∧ decode .default (packetOfNat 0x300028500D) = .ok (.seekPlay 0 0 2 8 5 0)
  ∧ decode .default (packetOfNat 0xB000000004) = .ok .trackCue

/-- R152 (its reading is decision D8), R153 (a), (b), (c): the checksum is 15 less the plain sum of the nine nibbles
modulo 16; a sealed bank is valid; a bank is valid exactly when its ten nibbles sum to 15 modulo 16; and changing any one
nibble of a valid bank makes it invalid. -/
def Obligations.OneChangedNibbleIsDetected : Prop :=
  (∀ p : Bank, (chk p).toNat = 15 - (p.n0.toNat + p.n1.toNat + p.n2.toNat + p.n3.toNat + p.n4.toNat + p.n5.toNat
    + p.n6.toNat + p.n7.toNat + p.n8.toNat) % 16)
  ∧ (∀ p : Bank, validate (sealBank p) = true)
  ∧ (∀ p : Bank, validate p = true ↔
      (p.n0.toNat + p.n1.toNat + p.n2.toNat + p.n3.toNat + p.n4.toNat + p.n5.toNat + p.n6.toNat + p.n7.toNat
        + p.n8.toNat + p.n9.toNat) % 16 = 15)
  ∧ (∀ (p : Bank) (i : Fin 10) (v : Nib), validate p = true → v ≠ Bank.get p i → validate (Bank.set p i v) = false)

/-! ### The step -/

/-- R154, R155, R158: when the next event is the byte write to `CMD[9]` and the packet then buffered decodes to `i`, the
step is `exec i` on the state with that nibble stored and the event taken, followed by the status checksum. -/
def Obligations.StepRunsTheDecodedInstruction : Prop :=
  ∀ (s : State) (v : Long) (rest : List Event) (i : Instr),
    s.inputs = .busWrite (offTrigger s.cfg) .byte v :: rest →
    decode s.cfg { s.cmd with n9 := v.extractLsb' 0 4 } = .ok i →
    step s = andThen (exec i { s with inputs := rest, outputs := [], cmd := { s.cmd with n9 := v.extractLsb' 0 4 } })
      (fun t => .next { t with stat := { t.stat with n9 := chk t.stat } })

/-- R155, R311, R316 (what is kept is decision D9): with a wrong checksum the same step changes the status, its nibble
and the status checksum, whatever the rest of the packet holds, and nothing else of the block. -/
def Obligations.WrongChecksumIsReported : Prop :=
  ∀ (s : State) (v : Long) (rest : List Event),
    s.inputs = .busWrite (offTrigger s.cfg) .byte v :: rest →
    validate { s.cmd with n9 := v.extractLsb' 0 4 } = false →
    ∃ st : Bank, step s = .next { s with
        inputs := rest, outputs := [], cmd := { s.cmd with n9 := v.extractLsb' 0 4 },
        stat := st, play := { s.play with status := .checksumError } }
      ∧ { st with n9 := s.stat.n9 } = { s.stat with n0 := statusCode s.cfg .checksumError }
      ∧ st.n9 = chk st

/-- R90, R154 and log 35: packets and their numbers correspond; the table word of a command's packet with the default
codes names the command; and the state that holds a command's packet as the next thing to run runs exactly that
command. -/
def Obligations.FetchWordRunsItsInstruction : Prop :=
  (∀ p : Bank, packetOfNat (packetToNat p) = p)
  ∧ (∀ i : Instr, i.wf .default = true → decodeTableWord 40 (packetToNat (encode .default i)) = some i)
  ∧ ∀ (s : State) (i : Instr), s.cfg.wf = true → i.wf s.cfg = true →
    step (s.withFetchWord 40 (packetToNat (encode s.cfg i)))
      = andThen (exec i { s with outputs := [], cmd := encode s.cfg i }) (fun t => .next (sealReply t))

/-- R158: the last act of every executed packet is the status checksum, so the reply is valid; ticks and disc events do
not write the status bank. -/
def Obligations.EveryReplyIsSealed : Prop :=
  (∀ s t : State, execute s = .next t → t.stat.n9 = chk t.stat ∧ validate t.stat = true)
  ∧ (∀ (s t : State) (e : Event) (rest : List Event), s.inputs = e :: rest →
      (e = .pollTick ∨ (∃ io, e = .audioTick io) ∨ (∃ p, e = .insertDisc p) ∨ e = .eject) →
      step s = .next t → t.stat = s.stat)

/-! ### Invariants that every step keeps -/

/-- R158 as an invariant of the machine: a valid status bank stays valid, unless a restored state brings an invalid one
(R351, decision D36, log 32). That the `Reset` event leaves a sealed bank is decision D27 (R47, R340, log 9), which U11
lets a model draw instead: in that case this rests on the model's choice. -/
def Obligations.StatusChecksumKept : Prop :=
  ∀ s t : State, validate s.stat = true → (∀ e rest, s.inputs = e :: rest → e.restoresValid = true) →
    step s = .next t → validate t.stat = true

/-- R41, R43: whatever the block is told, the disc state stays what R41 and R43 say: empty, or a contiguous table
numbered from 1 with the lengths of its kind; and every track's bytes stay in the model's own canonical form (log 28).
-/
def Obligations.TrackTableKept : Prop :=
  ∀ s t : State, s.disc.ok = true → step s = .next t → t.disc.ok = true

/-- R31, R34, R36, R40, R246 (d), R290, R296: the parameters, the disc state and the ranges of the playback state are
kept by every step that does not restore a state out of range (R351); so is where `sampleOffset` can stand: a multiple
of 4, and at most 2352 as R36 and R40 say; only where the model's parameter `offsetBounded` is clear, which it is not
from reset, can it be 2356 too, on the sentinel track past the end of the disc (log 44). The sentinel's and the
parameters' ranges are decisions D16 and D29 (logs 18, 26). -/
def Obligations.PlaybackRangesKept : Prop :=
  (∀ s t : State, s.ok = true → (∀ e rest, s.inputs = e :: rest → e.restoresOk s.cfg s.disc = true) →
    step s = .next t → t.ok = true)
  ∧ (∀ s t : State, s.disc.ok = true → s.play.offsetOk s.cfg s.disc = true →
    (∀ e rest, s.inputs = e :: rest → e.restoresOffset s.cfg s.disc = true) →
    step s = .next t → t.play.offsetOk t.cfg t.disc = true)
  ∧ (∀ (c : Config) (d : Disc) (p : Playback), p.offsetOk c d = true → p.sampleOffset % 4 = 0
    ∧ (p.sampleOffset ≤ 2352
      ∨ (c.offsetBounded = false ∧ p.sampleOffset = 2356 ∧ p.track = leadoutNumber c ∧ (d.totalEnd : Int) ≤ p.sector + 1)))

/-- R47, R340 (NoDisc is the source's; the other values are decisions D23, D26, D27, D40, log 9): the state after reset,
that it meets the invariants above, and that the `Reset` event brings the block back to it. -/
def Obligations.ResetValues : Prop :=
  State.reset.play = ⟨.noDisc, 0, 0, 0, 0, .stopped, false⟩
  ∧ State.reset.disc = ⟨false, [], 0, 0, .unknown⟩
  ∧ State.reset.control = 0 ∧ State.reset.cmd = ⟨0, 0, 0, 0, 0, 0, 0, 0, 0, 0⟩
  ∧ State.reset.stat = ⟨0xB, 0, 0, 0, 0, 0, 0, 0, 0, 0x4⟩
  ∧ State.reset.ok = true ∧ State.reset.play.offsetOk State.reset.cfg State.reset.disc = true ∧ validate State.reset.stat = true
  ∧ ∀ (s : State) (rest : List Event), s.inputs = .reset :: rest → s.cfg = State.reset.cfg →
      step s = .next { State.reset with inputs := rest, draws := s.draws }

/-! ### Whole-machine rules -/

/-- R310: from a state in range, a host that makes no odd word or long access (R65, decision D31, log 29) and inserts
no disc over another (R347, decision D26, log 24) always gets a next state, and so does a block to which nothing is
said (the idle step is the model's, log 1). -/
def Obligations.GoodHostIsNeverRefused : Prop :=
  (∀ (s : State) (e : Event) (rest : List Event), s.ok = true → s.inputs = e :: rest → e.acceptable s = true →
      ∃ t, step s = .next t)
  ∧ (∀ s : State, s.inputs = [] → step s = .next { s with outputs := [] })

/-- R65, R122, R180, R213, R216, R310, R347: in any state at all, a step stops exactly for the three reasons that the
spec names: an odd word or long access (U9, decision D31, log 29), an insertion over a disc (U8, decision D26, log
24), or an absolute time report, asked for or repeated by DriveStatus, of a sector below -150 (U10); and each of them
does stop it. That DriveStatus compares the selector with `REQ_CODE` is log 3. -/
def Obligations.RefusalsAreTheSpecsThree : Prop :=
  ∀ (s : State) (r : Refusal), step s = .refused r ↔
    (∃ off n v rest, s.inputs = .busWrite off n v :: rest ∧ n ≠ .byte ∧ off % 2 = 1 ∧ r = .misalignedAccess off)
    ∨ (∃ off n rest, s.inputs = .busRead off n :: rest ∧ n ≠ .byte ∧ off % 2 = 1 ∧ r = .misalignedAccess off)
    ∨ (∃ p rest, s.inputs = .insertDisc p :: rest ∧ s.disc.present = true ∧ r = .discAlreadyPresent)
    ∨ (∃ e rest, s.inputs = e :: rest ∧ s.play.sector < -150 ∧ r = .timeCodeBelowLeadIn s.play.sector
        ∧ (e.executes s = some .requestAbs
          ∨ (e.executes s = some .driveStatus ∧ s.play.latency ≤ 3
              ∧ s.stat.n1 = s.cfg.reqCode .absoluteTime)))

/-- R3, R80, R351: what an event does depends on the block alone, not on what waits behind it nor on what was emitted
before; the queue loses exactly the event. -/
def Obligations.StepDependsOnTheBlockAlone : Prop :=
  ∀ (s t : State) (e : Event) (q r : List Event), sameBlock s t → s.inputs = e :: q → t.inputs = e :: r →
    (∃ s' t', step s = .next s' ∧ step t = .next t' ∧ sameBlock s' t' ∧ s'.outputs = t'.outputs
        ∧ s'.inputs = q ∧ t'.inputs = r)
    ∨ (∃ a, step s = .refused a ∧ step t = .refused a)

/-- R350, R351 (the saved surface is decision D36): a save changes nothing and returns a copy; restoring that copy,
whatever the block was doing, with the same disc and parameters, gives the saved block back. -/
def Obligations.RestoreUndoesEverything : Prop :=
  ∀ (s : State) (q : List Event), s.inputs = .saveState :: q →
    ∃ v, step s = .next { s with inputs := q, outputs := [.saved v] }
      ∧ ∀ (t : State) (r : List Event), t.inputs = .restoreState v :: r → t.disc = s.disc → t.cfg = s.cfg →
          t.draws = s.draws → ∃ t', step t = .next t' ∧ sameBlock s t'

/-- R9, R10, R25, R41: no step writes the parameters; only insertion, removal and reset write the disc state; only host
writes, a restore and a reset write the command bank. -/
def Obligations.WhoWritesDiscAndCommandBank : Prop :=
  ∀ (s t : State) (e : Event) (rest : List Event), s.inputs = e :: rest → step s = .next t →
    t.cfg = s.cfg
    ∧ ((∀ p, e ≠ .insertDisc p) → e ≠ .eject → e ≠ .reset → t.disc = s.disc)
    ∧ ((∀ off n v, e ≠ .busWrite off n v) → (∀ v, e ≠ .restoreState v) → e ≠ .reset → t.cmd = s.cmd)

/-- R23, R25, R67, R129 (that the host cannot write `DM` is decision D6): `DM` changes only in a tick, a restore or a
reset, never by a bus write or a command; every other bit of `CONTROL`, `HOCK` among them, only by a bus write, a
restore or a reset. -/
def Obligations.WhoWritesControl : Prop :=
  ∀ (s t : State) (e : Event) (rest : List Event), s.inputs = e :: rest → step s = .next t →
    (e ≠ .pollTick → (∀ io, e ≠ .audioTick io) → (∀ v, e ≠ .restoreState v) → e ≠ .reset → dm t = dm s)
    ∧ ((∀ off n v, e ≠ .busWrite off n v) → (∀ v, e ≠ .restoreState v) → e ≠ .reset →
        ∀ k, k ≠ s.cfg.dmBit → t.control.getLsbD k = s.control.getLsbD k)

/-- R159, R245, R270 (decision D20, log 20): a Polling Tick lowers `latency` by one in Seeking and leaves it
otherwise; a bus write changes it only by executing a seek command; bus reads, Audio Ticks and saves never do. -/
def Obligations.WhoWritesLatency : Prop :=
  ∀ (s t : State) (e : Event) (rest : List Event), s.inputs = e :: rest → step s = .next t →
    (e = .pollTick → t.play.latency =
        if ticking s = true ∧ s.play.status = .seeking then s.play.latency - 1 else s.play.latency)
    ∧ (∀ off n v, e = .busWrite off n v → t.play.latency = s.play.latency
        ∨ (∃ a b c d f g, e.executes s = some (.seekPlay a b c d f g))
        ∨ (∃ a b c d f g, e.executes s = some (.seekPause a b c d f g)))
    ∧ ((∃ off n, e = .busRead off n) ∨ (∃ io, e = .audioTick io) ∨ e = .saveState →
        t.play.latency = s.play.latency)

/-- R25, R66, R154: the status bank changes only in a bus write that covers the trigger byte, a restore or a reset;
and a bus write that does not cover it, or a read, starts no command: reply, playback state, disc and draws stay. That
a host write to the status bank is dropped is decision D7 (log 8), that Eject leaves the bank is decision D28 (log
25). -/
def Obligations.OnlyTheTriggerWritesTheReply : Prop :=
  ∀ (s t : State) (e : Event) (rest : List Event), s.inputs = e :: rest → step s = .next t →
    (t.stat ≠ s.stat →
      (∃ off n v, e = .busWrite off n v ∧ coversTrigger s.cfg off n = true) ∨ (∃ v, e = .restoreState v) ∨ e = .reset)
    ∧ ((∃ off n v, e = .busWrite off n v ∧ coversTrigger s.cfg off n = false) ∨ (∃ off n, e = .busRead off n) →
      t.stat = s.stat ∧ t.play = s.play ∧ t.disc = s.disc ∧ t.draws = s.draws)

/-- R160: LeadOut is entered only by a Polling Tick in ReadingTOC, Seeking or Playing, by an Audio Tick in Playing, or by
a restore; no command and no other event enters it. -/
def Obligations.LeadOutIsEnteredByTicks : Prop :=
  ∀ (s t : State) (e : Event) (rest : List Event), s.inputs = e :: rest → step s = .next t →
    t.play.status = .leadOut → s.play.status ≠ .leadOut →
    (e = .pollTick ∧ (s.play.status = .readingToc ∨ s.play.status = .seeking ∨ s.play.status = .playing))
    ∨ ((∃ io, e = .audioTick io) ∧ s.play.status = .playing)
    ∨ (∃ v, e = .restoreState v)

/-! ### Commands: frames -/

/-- R159 (decisions D19, D20): what no command writes. Through the reads of the machine: every byte of the window but
`STAT[0..8]` and every byte of track data reads as before. -/
def Obligations.CommandFrame : Prop :=
  ∀ (i : Instr) (s t : State), exec i s = .next t →
    t.cmd = s.cmd ∧ t.control = s.control ∧ t.disc = s.disc ∧ t.cfg = s.cfg ∧ t.inputs = s.inputs
    ∧ t.outputs = s.outputs ∧ t.stat.n9 = s.stat.n9
    ∧ t.play.track = s.play.track ∧ t.play.tocReadDone = s.play.tocReadDone
    ∧ (∀ a, (∀ k : Fin 9, a ≠ offStat0 s.cfg + k) → readByte t a = readByte s a)
    ∧ (∀ n a, (trackEntry t.disc n).map (fun e => Memory.read e.data a)
        = (trackEntry s.disc n).map (fun e => Memory.read e.data a))

/-- R157, R159, R210 (decisions D19, D20): a command that is no seek keeps position, latency and pending status;
DriveStatus, every Request, TrackCue and the unassigned codes keep the whole playback state. -/
def Obligations.WhichCommandsKeepThePlaybackState : Prop :=
  ∀ (i : Instr) (s t : State), exec i s = .next t →
    ((∀ a b c d e f, i ≠ .seekPlay a b c d e f) → (∀ a b c d e f, i ≠ .seekPause a b c d e f) →
      t.play = { s.play with status := t.play.status })
    ∧ (i = .driveStatus ∨ i = .requestAbs ∨ i = .requestRel ∨ i = .requestTrack ∨ i = .requestTotal
        ∨ i = .requestTracks ∨ (∃ a b, i = .requestTstart a b) ∨ i = .requestError ∨ i = .requestUnassigned7
        ∨ (∃ a, i = .requestUnassigned8F a) ∨ i = .trackCue ∨ i = .unassigned5 ∨ i = .unassignedE
        ∨ i = .unassignedF → t.play = s.play)

/-! ### Commands: results (each is its command's completion too) -/

/-- R185, R187 (that Pause needs no disc is decision D34, log 31): a valid packet with the code of Pause is Pause, one
with that of TrackSkip is TrackSkip, for every injective code map; each enters Paused from any status, reports it, and
writes nothing else. -/
def Obligations.PauseAndTrackSkipPause : Prop :=
  (∀ (c : Config) (p : Bank), c.wf = true → validate p = true → p.n0 = c.cmdCode .pause → decode c p = .ok .pause)
  ∧ (∀ (c : Config) (p : Bank), c.wf = true → validate p = true → p.n0 = c.cmdCode .trackSkip →
      decode c p = .ok .trackSkip)
  ∧ (∀ s : State, exec .pause s = .next { s with
      play := { s.play with status := .paused }, stat := { s.stat with n0 := statusCode s.cfg .paused } })
  ∧ (∀ s : State, exec .trackSkip s = .next { s with
      play := { s.play with status := .paused }, stat := { s.stat with n0 := statusCode s.cfg .paused } })

/-- R186, R192, R193 (that Forward and Reverse run is decision D32, log 30; that Play runs without a disc too, and every
command in every status, is decision D34, log 31): Play enters Playing at once, Forward and
Reverse enter Scanning; nothing else is written. -/
def Obligations.PlayForwardReverseEnterTheirStatus : Prop :=
  ∀ s : State,
    exec .play s = .next { s with
      play := { s.play with status := .playing }, stat := { s.stat with n0 := statusCode s.cfg .playing } }
    ∧ exec .forward s = .next { s with
      play := { s.play with status := .scanning }, stat := { s.stat with n0 := statusCode s.cfg .scanning } }
    ∧ exec .reverse s = .next { s with
      play := { s.play with status := .scanning }, stat := { s.stat with n0 := statusCode s.cfg .scanning } }

/-- R183, R190, R191, R104 (`STAT[0]` of the door commands is decision D19): Stop and DoorClose start the TOC read, or
say NoDisc, and report Stopped; DoorOpen enters and reports DoorOpened; all three clear `STAT[1..8]`. -/
def Obligations.StopAndDoorResults : Prop :=
  ∀ s : State,
    exec .stop s = .next { s with
      play := { s.play with status := if s.disc.present = true then .readingToc else .noDisc },
      stat := ⟨statusCode s.cfg .stopped, 0, 0, 0, 0, 0, 0, 0, 0, s.stat.n9⟩ }
    ∧ exec .doorClose s = .next { s with
      play := { s.play with status := if s.disc.present = true then .readingToc else .noDisc },
      stat := ⟨statusCode s.cfg .stopped, 0, 0, 0, 0, 0, 0, 0, 0, s.stat.n9⟩ }
    ∧ exec .doorOpen s = .next { s with
      play := { s.play with status := .doorOpened },
      stat := ⟨statusCode s.cfg .doorOpened, 0, 0, 0, 0, 0, 0, 0, 0, s.stat.n9⟩ }

/-- R195, R196, R223, R312 (decisions D10, D12): an unsupported command or sub-command refreshes the reported status and
does nothing else. -/
def Obligations.UnsupportedCommandsRefreshTheStatus : Prop :=
  ∀ (i : Instr) (s : State),
    (i = .trackCue ∨ i = .unassigned5 ∨ i = .unassignedE ∨ i = .unassignedF ∨ i = .requestUnassigned7
      ∨ (∃ a, i = .requestUnassigned8F a)) →
    exec i s = .next { s with stat := { s.stat with n0 := statusCode s.cfg s.play.status } }

/-- R180, R181, R182 (decision D11, log 13; that the selector is compared with `REQ_CODE` is log 3): with more than 3
ticks of latency left DriveStatus writes nothing; with at most 3 it answers as the Request the selector names, the 0xF
selector becoming the track report when the latency is over, and any other selector leaving the payload; the one stop
is R122's, below the lead-in. -/
def Obligations.DriveStatusRepeatsTheSelectedReport : Prop :=
  ∀ s : State,
    (3 < s.play.latency → exec .driveStatus s = .next s)
    ∧ (s.play.latency ≤ 3 → s.stat.n1 = s.cfg.reqCode .absoluteTime → exec .driveStatus s = exec .requestAbs s)
    ∧ (s.cfg.wf = true → s.play.latency ≤ 3 → s.stat.n1 = s.cfg.reqCode .relativeTime →
        exec .driveStatus s = exec .requestRel s)
    ∧ (s.cfg.wf = true → s.play.latency ≤ 3 → s.stat.n1 = s.cfg.reqCode .trackInformation →
        exec .driveStatus s = exec .requestTrack s)
    ∧ (s.cfg.wf = true → s.play.latency = 0 → s.stat.n1 = 0xF → exec .driveStatus s = exec .requestTrack s)
    ∧ (s.play.latency ≤ 3 → s.stat.n1 ≠ s.cfg.reqCode .absoluteTime → s.stat.n1 ≠ s.cfg.reqCode .relativeTime →
        s.stat.n1 ≠ s.cfg.reqCode .trackInformation → (s.stat.n1 ≠ 0xF ∨ 1 ≤ s.play.latency) →
        exec .driveStatus s = .next { s with stat := { s.stat with n0 := statusCode s.cfg s.play.status } })
    ∧ (-150 ≤ s.play.sector → ∃ t, exec .driveStatus s = .next t)

/-- R213, R216, R106, R121 to R124, R128 (digit positions and the flag are decision D13, log 14): Request AbsoluteTime
completes from sector -150 up and is refused below; its six digits are the decimal digits, tens first, of the minutes,
seconds and frames of the sector counted from the start of the lead-in (a minute tens digit above 15 is cut, decision
D39, log 34), and, read as R98 reads digits, they are the time code whose sector is the current sector, for every
sector that a two-digit minute can show; the last payload nibble is the data flag if the current track is a data
track, else 0; nothing else is written. -/
def Obligations.AbsoluteTimeReadsBackAsTheSector : Prop :=
  (∀ s : State, s.play.sector < -150 → exec .requestAbs s = .refused (.timeCodeBelowLeadIn s.play.sector))
  ∧ (∀ (s : State) (a : Nat), (a : Int) = s.play.sector + 150 →
    ∃ t, exec .requestAbs s = .next t ∧ t = { s with stat := t.stat }
      ∧ t.stat.n0 = statusCode s.cfg s.play.status ∧ t.stat.n1 = s.cfg.reqCode .absoluteTime
      ∧ t.stat.n2 = BitVec.ofNat 4 (a / 4500 / 10) ∧ t.stat.n3 = BitVec.ofNat 4 (a / 4500 % 10)
      ∧ t.stat.n4 = BitVec.ofNat 4 (a / 75 % 60 / 10) ∧ t.stat.n5 = BitVec.ofNat 4 (a / 75 % 60 % 10)
      ∧ t.stat.n6 = BitVec.ofNat 4 (a % 75 / 10) ∧ t.stat.n7 = BitVec.ofNat 4 (a % 75 % 10)
      ∧ t.stat.n8 = (match curEntry s with
        | some e => if e.type = .data then s.cfg.blockFlagData else 0
        | none => 0)
      ∧ t.stat.n9 = s.stat.n9
      ∧ pairValue t.stat.n4 t.stat.n5 = a / 75 % 60 ∧ pairValue t.stat.n6 t.stat.n7 = a % 75
      ∧ (s.play.sector < 449850 →
          toSector (pairValue t.stat.n2 t.stat.n3) (pairValue t.stat.n4 t.stat.n5) (pairValue t.stat.n6 t.stat.n7)
            = s.play.sector))

/-- R214, R217, R121, R123, R128 (decision D15, log 17; the flag is decision D13, log 14; the cut of a wide minute
tens digit is decision D39, log 34): Request RelativeTime completes in every state; its digits are the distance, in
frames, of the current sector from the start of the current track, or from sector 0 with no current track; the last
payload nibble is the data flag if the current track is a data track, else 0. -/
def Obligations.RelativeTimeIsTheDistanceFromTheTrackStart : Prop :=
  ∀ (s : State) (base : Nat),
    ((∃ e, curEntry s = some e ∧ base = e.startSector) ∨ (curEntry s = none ∧ base = 0)) →
    ∃ t, exec .requestRel s = .next t ∧ t = { s with stat := t.stat }
      ∧ t.stat.n0 = statusCode s.cfg s.play.status ∧ t.stat.n1 = s.cfg.reqCode .relativeTime
      ∧ t.stat.n8 = (match curEntry s with
          | some e => if e.type = .data then s.cfg.blockFlagData else 0
          | none => 0)
      ∧ t.stat.n9 = s.stat.n9
      ∧ t.stat.n2 = BitVec.ofNat 4 ((s.play.sector - base).natAbs / 4500 / 10)
      ∧ t.stat.n3 = BitVec.ofNat 4 ((s.play.sector - base).natAbs / 4500 % 10)
      ∧ t.stat.n4 = BitVec.ofNat 4 ((s.play.sector - base).natAbs / 75 % 60 / 10)
      ∧ t.stat.n5 = BitVec.ofNat 4 ((s.play.sector - base).natAbs / 75 % 60 % 10)
      ∧ t.stat.n6 = BitVec.ofNat 4 ((s.play.sector - base).natAbs % 75 / 10)
      ∧ t.stat.n7 = BitVec.ofNat 4 ((s.play.sector - base).natAbs % 75 % 10)
      ∧ pairValue t.stat.n4 t.stat.n5 = (s.play.sector - base).natAbs / 75 % 60
      ∧ pairValue t.stat.n6 t.stat.n7 = (s.play.sector - base).natAbs % 75
      ∧ ((s.play.sector - base).natAbs < 450000 →
          (pairValue t.stat.n2 t.stat.n3 * 60 + pairValue t.stat.n4 t.stat.n5) * 75 + pairValue t.stat.n6 t.stat.n7
            = (s.play.sector - base).natAbs)

/-- R215, R218, R107, R123 (decisions D13, D16): Request TrackInformation completes in every state and reports the
current track as `bcd2` gives it, or the sentinel as its two nibbles. Up to 99 these are the decimal digits; that a track
from 100 up is reported in this way too is log 42, and the cut of its tens digit from 160 up is log 34 (decision D39). -/
def Obligations.TrackNumberReply : Prop :=
  ∀ s : State, ∃ t, exec .requestTrack s = .next t
    ∧ t = { s with stat := ⟨statusCode s.cfg s.play.status, s.cfg.reqCode .trackInformation, t.stat.n2, t.stat.n3, 0, 0, 0, 0, 0, s.stat.n9⟩ }
    ∧ (s.play.track = leadoutNumber s.cfg → t.stat.n2 ++ t.stat.n3 = s.cfg.leadoutTrack)
    ∧ (s.play.track ≠ leadoutNumber s.cfg →
        t.stat.n2 = BitVec.ofNat 4 (s.play.track.val / 10) ∧ t.stat.n3 = BitVec.ofNat 4 (s.play.track.val % 10))
    ∧ (s.play.track ≠ leadoutNumber s.cfg → s.play.track.val ≤ 99 →
        pairValue t.stat.n2 t.stat.n3 = s.play.track.val)

/-- R219, R108, R121, R123 (decision D13; the cut of a wide minute tens digit is decision D39, log 34): Request
DiscCompletionTime completes in every state; its digits are the time code of the disc's end sector, lead-in included.
-/
def Obligations.DiscLengthReadsBackAsTheEndSector : Prop :=
  ∀ s : State, ∃ t, exec .requestTotal s = .next t ∧ t = { s with stat := t.stat }
    ∧ t.stat.n0 = statusCode s.cfg s.play.status ∧ t.stat.n1 = s.cfg.reqCode .discCompletionTime ∧ t.stat.n8 = 0 ∧ t.stat.n9 = s.stat.n9
    ∧ t.stat.n2 = BitVec.ofNat 4 ((s.disc.totalEnd + 150) / 4500 / 10)
    ∧ t.stat.n3 = BitVec.ofNat 4 ((s.disc.totalEnd + 150) / 4500 % 10)
    ∧ t.stat.n4 = BitVec.ofNat 4 ((s.disc.totalEnd + 150) / 75 % 60 / 10)
    ∧ t.stat.n5 = BitVec.ofNat 4 ((s.disc.totalEnd + 150) / 75 % 60 % 10)
    ∧ t.stat.n6 = BitVec.ofNat 4 ((s.disc.totalEnd + 150) % 75 / 10)
    ∧ t.stat.n7 = BitVec.ofNat 4 ((s.disc.totalEnd + 150) % 75 % 10)
    ∧ pairValue t.stat.n4 t.stat.n5 = (s.disc.totalEnd + 150) / 75 % 60
    ∧ pairValue t.stat.n6 t.stat.n7 = (s.disc.totalEnd + 150) % 75
    ∧ (s.disc.totalEnd < 449850 →
        toSector (pairValue t.stat.n2 t.stat.n3) (pairValue t.stat.n4 t.stat.n5) (pairValue t.stat.n6 t.stat.n7)
          = (s.disc.totalEnd : Int))

/-- R220, R109, R123 (decision D13): Request DiscTracks completes in every state and reports the first and the last track
as `bcd2` gives them. That a count from 100 up is reported in this way too is log 42, and the cut of its tens digit from
160 up is log 34 (decision D39). -/
def Obligations.TrackCountReply : Prop :=
  ∀ s : State, exec .requestTracks s = .next { s with
      stat := ⟨statusCode s.cfg s.play.status, s.cfg.reqCode .discTracks, 0, if 1 ≤ s.disc.numTracks then 1 else 0,
        BitVec.ofNat 4 (s.disc.numTracks / 10), BitVec.ofNat 4 (s.disc.numTracks % 10), 0, 0, 0, s.stat.n9⟩ }

/-- R221, R110, R121, R123 (decision D14; the cut of a wide minute tens digit is decision D39, log 34): Request
TrackStartTime for a track of the disc reports the time code of its start, the data flag ORed into the frame tens
digit, and the track's units digit; with the default flag (bit 3) the digits read back as the start sector. -/
def Obligations.TrackStartReply : Prop :=
  ∀ (s : State) (t10 t1 : Nib) (e : TrackEntry), s.disc.ok = true → 1 ≤ pairValue t10 t1 →
    s.disc.table[pairValue t10 t1 - 1]? = some e →
    ∃ t, exec (.requestTstart t10 t1) s = .next t ∧ t = { s with stat := t.stat }
      ∧ t.stat.n0 = statusCode s.cfg s.play.status ∧ t.stat.n1 = s.cfg.reqCode .trackStartTime ∧ t.stat.n9 = s.stat.n9
      ∧ t.stat.n2 = BitVec.ofNat 4 ((e.startSector + 150) / 4500 / 10)
      ∧ t.stat.n3 = BitVec.ofNat 4 ((e.startSector + 150) / 4500 % 10)
      ∧ t.stat.n4 = BitVec.ofNat 4 ((e.startSector + 150) / 75 % 60 / 10)
      ∧ t.stat.n5 = BitVec.ofNat 4 ((e.startSector + 150) / 75 % 60 % 10)
      ∧ pairValue t.stat.n4 t.stat.n5 = (e.startSector + 150) / 75 % 60
      ∧ t.stat.n6 = BitVec.ofNat 4 ((e.startSector + 150) % 75 / 10) ||| (if e.type = .data then s.cfg.tstFlagData else 0)
      ∧ t.stat.n7 = BitVec.ofNat 4 ((e.startSector + 150) % 75 % 10)
      ∧ t.stat.n8 = BitVec.ofNat 4 (pairValue t10 t1 % 10)
      ∧ (e.startSector < 449850 → s.cfg.tstFlagData = 0x8 →
          toSector (pairValue t.stat.n2 t.stat.n3) (pairValue t.stat.n4 t.stat.n5)
            (pairValue (t.stat.n6 &&& 0x7) t.stat.n7) = (e.startSector : Int)
          ∧ (t.stat.n6.getLsbD 3 = true ↔ e.type = .data))

/-- R221, 93 U3 (log 16): for a track that is not on the disc the command still completes; status and selector are as
always, the payload is some seven nibbles of which nothing is said, and nothing else of the block changes. -/
def Obligations.MissingTrackStillAnswers : Prop :=
  ∀ (s : State) (t10 t1 : Nib), pairValue t10 t1 = 0 ∨ s.disc.numTracks < pairValue t10 t1 →
    ∃ (a b c d e f g : Nib) (n : Nat), exec (.requestTstart t10 t1) s = .next { s with
      stat := ⟨statusCode s.cfg s.play.status, s.cfg.reqCode .trackStartTime, a, b, c, d, e, f, g, s.stat.n9⟩, draws := n }

/-- R222: a valid packet with the codes of Request and ErrorInformation, for every injective code map (log 3), reports no
error: the status, the selector of the report, and zeros. -/
def Obligations.ErrorReportIsAllZero : Prop :=
  (∀ (c : Config) (p : Bank), c.wf = true → validate p = true → p.n0 = c.cmdCode .request →
      p.n3 = c.reqCode .errorInformation → decode c p = .ok .requestError)
  ∧ (∀ s : State, exec .requestError s = .next { s with
      stat := ⟨statusCode s.cfg s.play.status, s.cfg.reqCode .errorInformation, 0, 0, 0, 0, 0, 0, 0, s.stat.n9⟩ })

/-- R241, R243, R244, R247, R248, R105 (decisions D17, D18): both seeks complete in every state, for every value of
the six digits. The sector is the target at once, the latency is the pending one, or the base if none is, plus the
distance term from the old sector, and the reply is the invalidate pattern; `track` and `DM` wait for completion. -/
def Obligations.SeekResults : Prop :=
  ∀ (s : State) (m10 m1 s10 s1 f10 f1 : Nib) (target : Int) (lat : Nat),
    target = (((10 * m10.toNat + m1.toNat) * 60 + (10 * s10.toNat + s1.toNat)) * 75
      + (10 * f10.toNat + f1.toNat) : Nat) - 150 →
    lat = (if s.play.latency = 0 then s.cfg.seekBase else s.play.latency)
      + (target - s.play.sector).natAbs * s.cfg.seekNum / s.cfg.seekDen →
    exec (.seekPlay m10 m1 s10 s1 f10 f1) s = .next { s with
      play := ⟨.seeking, s.play.track, target, 0, lat, .playing, s.play.tocReadDone⟩,
      stat := ⟨statusCode s.cfg .seeking, 0xF, 0, 0, 0, 0, 0, 0, 0, s.stat.n9⟩ }
    ∧ exec (.seekPause m10 m1 s10 s1 f10 f1) s = .next { s with
      play := ⟨.seeking, s.play.track, target, 0, lat, .paused, s.play.tocReadDone⟩,
      stat := ⟨statusCode s.cfg .seeking, 0xF, 0, 0, 0, 0, 0, 0, 0, s.stat.n9⟩ }

/-- R242: the distance term is the product divided, and with the default constants it is `n` exactly from `2250 n` to
below `2250 (n + 1)` sectors. -/
def Obligations.SeekDistanceTerm : Prop :=
  (∀ (c : Config) (target sector : Int),
    seekDist c target sector = (target - sector).natAbs * c.seekNum / c.seekDen)
  ∧ (∀ target sector : Int, seekDist .default target sector = (target - sector).natAbs * 120 / 270000)
  ∧ (∀ (target sector : Int) (n : Nat), seekDist .default target sector = n ↔
      2250 * n ≤ (target - sector).natAbs ∧ (target - sector).natAbs < 2250 * (n + 1))

/-- R246 (a), (b), (c): for any constants a larger distance never gives a smaller latency; with none pending the base is
included; a seek always leaves latency when the base is positive; with the default constants the distance term is at most
335 between any two sectors a seek can name, and every target lies from -150 to 754890. -/
def Obligations.SeekLatencyLaws : Prop :=
  (∀ (c : Config) (pending : Nat) (a b x y : Int), (a - x).natAbs ≤ (b - y).natAbs →
      seekLatency c pending (seekDist c a x) ≤ seekLatency c pending (seekDist c b y))
  ∧ (∀ (c : Config) (d : Nat), seekLatency c 0 d = c.seekBase + d)
  ∧ (∀ (c : Config) (pending d : Nat), 0 < c.seekBase → 1 ≤ seekLatency c pending d)
  ∧ (∀ a b : Int, -150 ≤ a → a ≤ 754890 → -150 ≤ b → b ≤ 754890 → seekDist .default a b ≤ 335)
  ∧ (∀ m10 m1 s10 s1 f10 f1 : Nib, -150 ≤ seekTarget m10 m1 s10 s1 f10 f1
      ∧ seekTarget m10 m1 s10 s1 f10 f1 ≤ 754890)

/-! ### The resolver -/

/-- R120 to R124: time code to sector and back: on valid fields the round trip is the identity, from -150 up every sector
has a time code with fields in range that leads back to it, and below -150 there is none. -/
def Obligations.TimeCodeRoundTrip : Prop :=
  (∀ mm ss ff : Nat, mm < 100 → ss < 60 → ff < 75 → toMsf (toSector mm ss ff) = some ⟨mm, ss, ff⟩)
  ∧ (∀ lba : Int, -150 ≤ lba → ∃ c, toMsf lba = some c ∧ c.s < 60 ∧ c.f < 75 ∧ toSector c.m c.s c.f = lba)
  ∧ (∀ lba : Int, lba < -150 → toMsf lba = none)
  ∧ (∀ v : Nat, v ≤ 99 → pairValue (bcdTens v) (bcdUnits v) = v)

/-- R125, R126, R127, R267, R297, R367 (the inclusive reading is the default of decision D24, log 22; both are
covered): on a good disc the lookup misses exactly below sector 0 and past the end; a sector strictly inside a track
is found in that track; a track's end sector is its own in the inclusive reading, so that the next track's start is
found in the earlier one, and a track's start sector is its own in the exclusive one; sector 0 is in the first track.
The current entry is the entry of the current track's number, none outside 1 to `numTracks` and on the sentinel (log
18). Without a disc both are none. -/
def Obligations.LookupFindsTheTrack : Prop :=
  (∀ (s : State) (lba : Int), s.disc.ok = true → s.disc.present = true →
    (trackForSector s lba = none ↔
      lba < 0 ∨ (if s.cfg.trackEndInclusive = true then (s.disc.totalEnd : Int) < lba else (s.disc.totalEnd : Int) ≤ lba))
    ∧ (∀ e ∈ s.disc.table, (e.startSector : Int) < lba → lba < (e.endSector : Int) → trackForSector s lba = some e))
  ∧ (∀ s : State, s.disc.ok = true → s.disc.present = true →
    (s.cfg.trackEndInclusive = true → ∀ e ∈ s.disc.table, e.startSector < e.endSector →
      trackForSector s e.endSector = some e)
    ∧ (s.cfg.trackEndInclusive = true → ∀ (k : Nat) (e f : TrackEntry), s.disc.table[k]? = some e →
      s.disc.table[k + 1]? = some f → e.startSector < e.endSector → trackForSector s f.startSector = some e)
    ∧ (s.cfg.trackEndInclusive = false → ∀ e ∈ s.disc.table, e.startSector < e.endSector →
      trackForSector s e.startSector = some e)
    ∧ (∀ e, s.disc.table[0]? = some e → (s.cfg.trackEndInclusive = true ∨ 0 < e.endSector) →
      trackForSector s 0 = some e)
    ∧ (1 ≤ s.play.track.val → s.play.track.val ≤ s.disc.numTracks → s.play.track ≠ leadoutNumber s.cfg →
      ∃ e ∈ s.disc.table, e.number = s.play.track ∧ curEntry s = some e)
    ∧ (s.play.track = 0 ∨ s.disc.numTracks < s.play.track.val ∨ s.play.track = leadoutNumber s.cfg →
      curEntry s = none))
  ∧ (∀ s : State, s.disc.ok = true → s.disc.present = false →
    curEntry s = none ∧ ∀ lba, trackForSector s lba = none)

/-! ### The Polling Tick -/

/-- R260, R261, R321: with `HOCK` clear or no disc a Polling Tick changes no state; the decoder output is produced and
is 0, the interrupt output follows `HOCK` alone. That the outputs come on a disabled tick too is the spec's resolution
C8, decision D21 (log 21). -/
def Obligations.DisabledPollTickChangesNothing : Prop :=
  ∀ (s : State) (rest : List Event), s.inputs = .pollTick :: rest →
    (s.control.getLsbD 2 = false ∨ s.disc.present = false) →
    step s = .next { s with
      inputs := rest, outputs := .cdcSector 0 :: (if s.control.getLsbD 2 = true then [.irq] else []) }

/-- R262 (that an insertion leaves Stopped is decision D26, log 24): in Stopped the first enabled tick starts the TOC
read from sector 0 and writes nothing else; Stopped comes from an insertion, never from the Stop command. -/
def Obligations.StoppedTickStartsTheTocRead : Prop :=
  (∀ (s : State) (rest : List Event), s.inputs = .pollTick :: rest → s.control.getLsbD 2 = true →
    s.disc.present = true → s.play.status = .stopped →
    step s = .next { s with
      inputs := rest, outputs := [.cdcSector 0, .irq],
      play := { s.play with status := .readingToc, sampleOffset := 0, track := 0, sector := 0 } })
  ∧ (∀ s t : State, exec .stop s = .next t → t.play.status ≠ .stopped)
  ∧ (∀ (s t : State) (kind : DiscKind) (ts : List TrackSource) (rest : List Event),
    s.inputs = .insertDisc (.image kind ts) :: rest → step s = .next t → t.outputs = [.insertOk] →
    t.play.status = .stopped)

/-- R265, R268 (R268 is decision D21): in every status but Stopped, ReadingTOC, Seeking and Playing an enabled tick
emits its two outputs and changes nothing. -/
def Obligations.IdleStatusesIgnoreTheTick : Prop :=
  ∀ (s : State) (rest : List Event), s.inputs = .pollTick :: rest → s.control.getLsbD 2 = true →
    s.disc.present = true → s.play.status ≠ .stopped → s.play.status ≠ .readingToc → s.play.status ≠ .seeking →
    s.play.status ≠ .playing →
    step s = .next { s with inputs := rest, outputs := [.cdcSector 0, .irq] }

/-- R266, R129, R131 (no current track is decision D22, log 21; that LeadOut sets the sentinel track in the Polling
Tick is decision D25, log 23): Playing with a data track or no current track: the sector handed on is the one before
the advance; the sector grows by 1; at the end of the disc the status is LeadOut, before it the track is the one that
holds the new sector. -/
def Obligations.PlayingDataAdvancesOneSector : Prop :=
  ∀ (s : State) (rest : List Event), s.disc.ok = true → s.inputs = .pollTick :: rest → s.control.getLsbD 2 = true →
    s.disc.present = true → s.play.status = .playing →
    (curEntry s = none ∨ ∃ e, curEntry s = some e ∧ e.type = .data) →
    ∃ t, step s = .next t ∧ t.outputs = [.cdcSector s.play.sector, .irq] ∧ t.inputs = rest
      ∧ t.stat = s.stat ∧ t.cmd = s.cmd ∧ t.disc = s.disc
      ∧ t.play = { s.play with
          sector := s.play.sector + 1, track := t.play.track,
          status := if (s.disc.totalEnd : Int) ≤ s.play.sector + 1 then .leadOut else .playing }
      ∧ ((s.disc.totalEnd : Int) ≤ s.play.sector + 1 → t.play.track = leadoutNumber s.cfg)
      ∧ (s.play.sector + 1 < 0 → t.play.track = 0)
      ∧ (0 ≤ s.play.sector + 1 → s.play.sector + 1 < (s.disc.totalEnd : Int) →
          ∃ e, trackForSector s (s.play.sector + 1) = some e ∧ t.play.track = e.number
            ∧ (e.number = s.play.track → t.control = s.control)
            ∧ (e.number ≠ s.play.track → s.cfg.dmBit < 16 →
                dm t = if e.type = .data then s.cfg.dmData else !s.cfg.dmData))

/-- R266, R269 (e) (that LeadOut sets the sentinel track in the Polling Tick is decision D25, log 23): Playing an
audio track the Polling Tick hands the sector on and does not move it; at the end sector it enters LeadOut. -/
def Obligations.PlayingAudioWaitsForTheAudioTick : Prop :=
  ∀ (s : State) (rest : List Event) (e : TrackEntry), s.inputs = .pollTick :: rest → s.control.getLsbD 2 = true →
    s.disc.present = true → s.play.status = .playing → curEntry s = some e → e.type = .audio →
    step s = .next { s with
      inputs := rest, outputs := [.cdcSector s.play.sector, .irq],
      play := if (s.disc.totalEnd : Int) ≤ s.play.sector then
          { s.play with status := .leadOut, track := leadoutNumber s.cfg } else s.play }

/-- R260, R263, R269 (b), R320, R321, R129, R131 (decision D23, log 21; the sentinel track on LeadOut is decision D25,
log 23): with nothing but Polling Ticks the TOC read that starts at sector `k` ends on tick `max(1, 151 - k)` at
sector `max(k + 1, 151)`, in Paused on the track that holds the sector, `DM` telling its type if the track changed, or
in LeadOut past the disc. Before its last tick it writes the sector alone; the last one sets `tocReadDone` too, and
keeps `sampleOffset`, `latency` and `pendingStatus`. Every tick emits the decoder output 0 and the interrupt. -/
def Obligations.TocReadTakesItsTicks : Prop :=
  ∀ (s : State) (n : Nat) (rest : List Event), s.disc.present = true → s.control.getLsbD 2 = true →
    s.play.status = .readingToc → n = (max 1 (151 - s.play.sector)).toNat →
    s.inputs = List.replicate n .pollTick ++ rest →
    (∀ k, k < n → core.run k s = .next { s with
      inputs := List.replicate (n - k) .pollTick ++ rest,
      outputs := if k = 0 then s.outputs else [.cdcSector 0, .irq],
      play := { s.play with sector := s.play.sector + k } })
    ∧ ∃ t, core.run n s = .next t
      ∧ t = { s with
          inputs := rest, outputs := [.cdcSector 0, .irq], control := t.control,
          play := { s.play with
            status := t.play.status, track := t.play.track, sector := max (s.play.sector + 1) 151, tocReadDone := true } }
      ∧ (∀ e, trackForSector s (max (s.play.sector + 1) 151) = some e →
          t.play.status = .paused ∧ t.play.track = e.number
          ∧ (e.number = s.play.track → t.control = s.control)
          ∧ (e.number ≠ s.play.track → s.cfg.dmBit < 16 →
              dm t = if e.type = .data then s.cfg.dmData else !s.cfg.dmData))
      ∧ (trackForSector s (max (s.play.sector + 1) 151) = none →
          t.play.status = .leadOut ∧ t.play.track = leadoutNumber s.cfg ∧ t.control = s.control)

/-- R246 (e), R260, R264, R269 (c), R320, R321, R129, R131 (track 0 in the lead-in and the sentinel track on LeadOut
are decision D25, log 23): with nothing but Polling Ticks a seek with latency `L` stays in Seeking for `L - 1` ticks
and completes on the `L`-th, at its target sector: in the pending status on the track that holds the sector, `DM`
telling its type if the track changed (track 0 in the lead-in), or in LeadOut past the disc. Before its last tick it
writes the latency alone, and the last one keeps `sampleOffset`, `pendingStatus` and `tocReadDone`. Every tick emits
the decoder output 0 and the interrupt. -/
def Obligations.SeekCompletesAfterItsLatency : Prop :=
  ∀ (s : State) (rest : List Event), s.disc.present = true → s.control.getLsbD 2 = true →
    s.play.status = .seeking → 1 ≤ s.play.latency →
    s.inputs = List.replicate s.play.latency .pollTick ++ rest →
    (∀ k, k < s.play.latency → core.run k s = .next { s with
      inputs := List.replicate (s.play.latency - k) .pollTick ++ rest,
      outputs := if k = 0 then s.outputs else [.cdcSector 0, .irq],
      play := { s.play with latency := s.play.latency - k } })
    ∧ ∃ t, core.run s.play.latency s = .next t
      ∧ t = { s with
          inputs := rest, outputs := [.cdcSector 0, .irq], control := t.control,
          play := { s.play with status := t.play.status, track := t.play.track, latency := 0 } }
      ∧ (∀ e, trackForSector s s.play.sector = some e →
          t.play.status = s.play.pendingStatus ∧ t.play.track = e.number
          ∧ (e.number = s.play.track → t.control = s.control)
          ∧ (e.number ≠ s.play.track → s.cfg.dmBit < 16 →
              dm t = if e.type = .data then s.cfg.dmData else !s.cfg.dmData))
      ∧ (trackForSector s s.play.sector = none → s.play.sector < 0 →
          t.play.status = s.play.pendingStatus ∧ t.play.track = 0 ∧ t.control = s.control)
      ∧ (trackForSector s s.play.sector = none → 0 ≤ s.play.sector →
          t.play.status = .leadOut ∧ t.play.track = leadoutNumber s.cfg ∧ t.control = s.control)

/-! ### The Audio Tick -/

/-- R291: unless Playing on an audio track, an Audio Tick emits one silent pair and changes no state. -/
def Obligations.SilentAudioTickChangesNothing : Prop :=
  ∀ (s : State) (io : TrackIo) (rest : List Event), s.inputs = .audioTick io :: rest →
    (s.play.status ≠ .playing ∨ curEntry s = none ∨ ∃ e, curEntry s = some e ∧ e.type = .data) →
    step s = .next { s with inputs := rest, outputs := [.sample 0 0] }

/-- R294 (the spec's own reconciliation of two sentences, C5 and decision D30, log 27): whatever a read would have
answered, a failed one changes only the sample, to silence; position and status go on as after a good read, and the
status bank is not touched. -/
def Obligations.FailedReadKeepsThePosition : Prop :=
  ∀ (s : State) (io : TrackIo),
    audioEvent .failure s = { audioEvent io s with outputs := s.outputs ++ [.sample 0 0] }
    ∧ (audioEvent io s).stat = s.stat

/-- R290, R292, R293, R75 to R77 (left first is decision D30, log 27): Playing an audio track, an Audio Tick emits the
two little-endian signed samples at the byte offset of the current position, from the image or from whatever the byte
source answers; in a sector below the track's start, past the track's bytes, and on a failure it emits silence whatever
the byte source answers. Before the sector's last sample it adds 4 to `sampleOffset` and writes nothing else. -/
def Obligations.AudioTickEmitsTheSamplesAtItsPosition : Prop :=
  ∀ (s : State) (e : TrackEntry) (io : TrackIo) (rest : List Event) (off : Int),
    s.inputs = .audioTick io :: rest → s.play.status = .playing → curEntry s = some e → e.type = .audio →
    off = e.sectorSize * (s.play.sector - e.startSector) + s.play.sampleOffset →
    ∃ t, step s = .next t ∧ t.inputs = rest
      ∧ (s.play.sector < e.startSector ∨ (e.lenBytes : Int) < off + 4 ∨ io = .failure → t.outputs = [.sample 0 0])
      ∧ ((e.startSector : Int) ≤ s.play.sector → off + 4 ≤ (e.lenBytes : Int) → io = .image →
          t.outputs = [.sample (Memory.read e.data (off.toNat + 1) ++ Memory.read e.data off.toNat).toInt
            (Memory.read e.data (off.toNat + 3) ++ Memory.read e.data (off.toNat + 2)).toInt])
      ∧ (∀ b0 b1 b2 b3 : Byte, (e.startSector : Int) ≤ s.play.sector → off + 4 ≤ (e.lenBytes : Int) →
          io = .supplied b0 b1 b2 b3 → t.outputs = [.sample (b1 ++ b0).toInt (b3 ++ b2).toInt])
      ∧ (s.play.sampleOffset + 4 < e.sectorSize →
          t = { s with
            inputs := rest, outputs := t.outputs, play := { s.play with sampleOffset := s.play.sampleOffset + 4 } })

/-- R129, R290, R294, R295, R366: 588 Audio Ticks from the start of a sector of an audio track, whatever the reads
answer, move the position to the start of the next sector, on the track that holds it, `DM` telling its type if the
track changed. That a failed read advances too (R294's reconciliation C5) and that `HOCK` does not gate the tick are
decision D30 (log 27). -/
def Obligations.AudioSectorTakes588Ticks : Prop :=
  ∀ (s : State) (e e2 : TrackEntry) (ios : List TrackIo) (rest : List Event),
    s.play.status = .playing → curEntry s = some e → e.type = .audio → e.sectorSize = 2352 →
    s.play.sampleOffset = 0 → trackForSector s (s.play.sector + 1) = some e2 →
    ios.length = 588 → s.inputs = ios.map .audioTick ++ rest →
    (∀ k, k < 588 → ∃ u, core.run k s = .next u ∧ u.play = { s.play with sampleOffset := 4 * k })
    ∧ ∃ t, core.run 588 s = .next t ∧ t.inputs = rest ∧ t.stat = s.stat
      ∧ t.play = { s.play with sector := s.play.sector + 1, track := e2.number }
      ∧ (e2.number = s.play.track → t.control = s.control)
      ∧ (e2.number ≠ s.play.track → s.cfg.dmBit < 16 →
          dm t = if e2.type = .data then s.cfg.dmData else !s.cfg.dmData)

/-- R130, R290, R295, R296: on the last sample of a sector, when no track holds the next sector, the Audio Tick enters
LeadOut and keeps the sector and the `sampleOffset` it has reached (decision D30, log 27): 4 more than before, which
from 2348 is the sector size 2352. An offset that stood at 2352 already is left there, within the range of R36 and
R40, where the model's parameter `offsetBounded` is set, as it is from reset (log 44). -/
def Obligations.AudioTickEntersLeadOutPastTheLastTrack : Prop :=
  ∀ (s : State) (e : TrackEntry) (io : TrackIo) (rest : List Event), s.inputs = .audioTick io :: rest →
    s.play.status = .playing → curEntry s = some e → e.type = .audio → e.sectorSize ≤ s.play.sampleOffset + 4 →
    trackForSector s (s.play.sector + 1) = none →
    ∃ o, step s = .next { s with
      inputs := rest, outputs := [o],
      play := { s.play with
        status := .leadOut, track := leadoutNumber s.cfg,
        sampleOffset := if s.cfg.offsetBounded = true ∧ s.play.sampleOffset = 2352 then s.play.sampleOffset
          else s.play.sampleOffset + 4 } }

/-! ### The register window -/

/-- R66: a byte write to `CMD[i]` stores the low nibble and drops the rest; only the write to `CMD[9]` executes. -/
def Obligations.CommandBankByteWrite : Prop :=
  ∀ (s : State) (i : Fin 10) (b : Byte),
    writeByte (offCmd0 s.cfg + i) b s =
      if i = 9 then execute { s with cmd := Bank.set s.cmd i (b.extractLsb' 0 4) }
      else .next { s with cmd := Bank.set s.cmd i (b.extractLsb' 0 4) }

/-- R62, R66, R70: a command nibble reads back as written, upper bits 0, and no other byte of the window changes. -/
def Obligations.CommandNibbleReadsBack : Prop :=
  ∀ (s t : State) (i : Fin 10) (b : Byte), i ≠ 9 → writeByte (offCmd0 s.cfg + i) b s = .next t →
    readByte t (offCmd0 s.cfg + i) = some (b &&& 0x0F)
    ∧ ∀ a, a ≠ offCmd0 s.cfg + i → readByte t a = readByte s a

/-- R63, R64, R73 (decision D31): a word write is its two byte writes, and a long write its two word writes, most
significant first, each complete before the next. -/
def Obligations.WideWritesAreSequences : Prop :=
  ∀ (s : State) (off : Nat) (v : Long), off % 2 = 0 →
    busWrite off .word v s = andThen (writeByte off (v.extractLsb' 8 8) s) (writeByte (off + 1) (v.extractLsb' 0 8))
    ∧ busWrite off .long v s = andThen (busWrite off .word (v.extractLsb' 16 16 |>.setWidth 32) s)
        (busWrite (off + 2) .word (v.extractLsb' 0 16 |>.setWidth 32))

/-- R23, R67, R68, R69, U14 (that `DM` and the status bank are not the host's to write is decisions D6, D7, logs 7, 8;
that a write of `HOCK` has no effect of its own is decision D37, log 33): a host
write to a byte of `CONTROL` sets every bit of that byte but `DM`, and no bit of the other, and changes nothing else;
writes to FADER, to the status bank and outside the block change nothing and are no error. -/
def Obligations.WritesOutsideTheCommandBank : Prop :=
  ∀ (s : State) (b : Byte), s.cfg.wf = true →
    (∃ c, writeByte s.cfg.offControl b s = .next { s with control := c }
      ∧ ∀ k, k < 16 → c.getLsbD k =
          if k = s.cfg.dmBit then dm s else if 8 ≤ k then b.getLsbD (k - 8) else s.control.getLsbD k)
    ∧ (∃ c, writeByte (s.cfg.offControl + 1) b s = .next { s with control := c }
      ∧ ∀ k, k < 16 → c.getLsbD k =
          if k = s.cfg.dmBit then dm s else if 8 ≤ k then s.control.getLsbD k else b.getLsbD k)
    ∧ (∀ a, (a = s.cfg.offFader ∨ a = s.cfg.offFader + 1
          ∨ (offStat0 s.cfg ≤ a ∧ a < offStat0 s.cfg + 10)
          ∨ (a ≠ s.cfg.offControl ∧ a ≠ s.cfg.offControl + 1 ∧ ¬ (s.cfg.offComm0 ≤ a ∧ a < s.cfg.offComm0 + 20))) →
        writeByte a b s = .next s)

/-- R61, R62, R70, R71, R72 (one nibble per byte of the window is decision D5 and conflict C1, log 6; the read of
FADER and of the upper bits is decision D7, log 8): an aligned read, and any byte read, has no side effect on the
block and returns, lowest offset first, the nibbles, the bytes of `CONTROL`, 0 for FADER, and nothing of the block's
outside its 24 bytes. -/
def Obligations.ReadsReturnTheRegisters : Prop :=
  (∀ (s : State) (off : Nat) (n : Size) (rest : List Event), s.inputs = .busRead off n :: rest →
    (n = .byte ∨ off % 2 = 0) →
    step s = .next { s with
      inputs := rest,
      outputs := [.readData (match n with
        | .byte => [readByte s off]
        | .word => [readByte s off, readByte s (off + 1)]
        | .long => [readByte s off, readByte s (off + 1), readByte s (off + 2), readByte s (off + 3)])] })
  ∧ (∀ s : State, s.cfg.wf = true →
    (∀ i : Fin 10, readByte s (offStat0 s.cfg + i) = some (0#4 ++ Bank.get s.stat i)
      ∧ readByte s (offCmd0 s.cfg + i) = some (0#4 ++ Bank.get s.cmd i))
    ∧ readByte s s.cfg.offControl = some (s.control.extractLsb' 8 8)
    ∧ readByte s (s.cfg.offControl + 1) = some (s.control.extractLsb' 0 8)
    ∧ readByte s s.cfg.offFader = some 0 ∧ readByte s (s.cfg.offFader + 1) = some 0
    ∧ ∀ a, a ≠ s.cfg.offControl → a ≠ s.cfg.offControl + 1 → a ≠ s.cfg.offFader → a ≠ s.cfg.offFader + 1 →
        ¬ (s.cfg.offComm0 ≤ a ∧ a < s.cfg.offComm0 + 20) → readByte s a = none)

/-! ### Disc events -/

/-- R132, R133, R345, R346, R347 (the status after insertion is decision D26): an acceptable image (for a raw image
every track a whole number of sectors and at least 150 of them; for an ISO image every track but the last a whole
number of sectors; never an unknown kind or an empty list, R43 (f), nor more tracks than `track` can number, R11, log
45) gives a good disc, the playback defaults and Stopped; anything else leaves the prior state and reports a failure;
over a disc the event is refused. The register file is not touched. The bytes of a loaded track are those of the
payload: at an offset below the track's length the first cell named there, 0 where none is (log 28). -/
def Obligations.InsertDiscLoadsOrFails : Prop :=
  (∀ ts : List TrackSource,
    acceptable .unknown ts = false
    ∧ (acceptable .binCue ts = true ↔ ts ≠ [] ∧ ts.length ≤ 255 ∧ ∀ t ∈ ts, t.lenBytes % 2352 = 0 ∧ 150 * 2352 ≤ t.lenBytes)
    ∧ (acceptable .iso ts = true ↔ ts ≠ [] ∧ ts.length ≤ 255 ∧ ∀ t ∈ ts.dropLast, t.lenBytes % 2352 = 0))
  ∧ (∀ (s : State) (kind : DiscKind) (ts : List TrackSource) (rest : List Event),
    s.inputs = .insertDisc (.image kind ts) :: rest → s.disc.present = false → acceptable kind ts = true →
    ∃ d : Disc, step s = .next { s with
        inputs := rest, outputs := [.insertOk], disc := d, play := ⟨.stopped, 0, 0, 0, 0, .stopped, false⟩ }
      ∧ d.ok = true ∧ d.present = true ∧ d.kind = kind ∧ d.numTracks = ts.length
      ∧ d.table.map (·.type) = ts.map (·.type) ∧ d.table.map (·.lenBytes) = ts.map (·.lenBytes)
      ∧ d.totalEnd = (ts.map (fun t => t.lenBytes / 2352)).sum
      ∧ ∀ (k : Nat) (t : TrackSource) (e : TrackEntry), ts[k]? = some t → d.table[k]? = some e →
          ∀ a, Memory.read e.data a =
            if a < t.lenBytes then ((t.cells.find? (fun x => x.1 == a)).map (·.2)).getD 0 else 0)
  ∧ (∀ (s : State) (p : DiscPayload) (rest : List Event),
    s.inputs = .insertDisc p :: rest → s.disc.present = false →
    (p = .loadError ∨ ∃ kind ts, p = .image kind ts ∧ acceptable kind ts = false) →
    step s = .next { s with inputs := rest, outputs := [.loadFailure] })
  ∧ (∀ (s : State) (p : DiscPayload) (rest : List Event),
    s.inputs = .insertDisc p :: rest → s.disc.present = true → step s = .refused .discAlreadyPresent)

/-- R41, R348 (that the register file is not touched is decision D28): Eject, with a disc or without, leaves no disc, the
playback defaults and NoDisc. -/
def Obligations.EjectLeavesNoDisc : Prop :=
  ∀ (s : State) (rest : List Event), s.inputs = .eject :: rest →
    step s = .next { s with
      inputs := rest, outputs := [], disc := ⟨false, [], 0, 0, .unknown⟩,
      play := ⟨.noDisc, 0, 0, 0, 0, .stopped, false⟩ }
end

