-- ==== Sys2Proof/Laws/Operands.lean ====
section
/-!
SUPPORT. Time codes and digits (40_resolver.md R120 to R124, 44_commands_seek.md R241, R243).
-/
namespace Sys2Proof.Machine

/-- Below the lead-in there is no time code, from the lead-in on there is one (R122). -/
theorem toMsf_none_iff {n : Int} : toMsf n = none ↔ n < -150 := by
  unfold toMsf
  split <;> rename_i h <;> simp only [leadIn] at h <;> simp <;> omega

/-- No digit value makes a seek target lie below the lead-in (R241, R246). -/
theorem seekTarget_ge (m10 m1 s10 s1 f10 f1 : Nib) : -150 ≤ seekTarget m10 m1 s10 s1 f10 f1 := by
  simp only [seekTarget, toSector, leadIn]; omega

/-- Two digits of a value up to 99 read back as the value (R98, R123). -/
theorem pairValue_bcd {v : Nat} (h : v ≤ 99) : pairValue (bcdTens v) (bcdUnits v) = v := by
  simp only [pairValue, bcdTens, bcdUnits, BitVec.toNat_ofNat]
  omega

/-- From the lead-in on, the time code is that of the distance from its start (R122). -/
theorem toMsf_of_ge {n : Int} (h : -150 ≤ n) : toMsf n = some (msfRaw (n + 150).toNat) := by
  unfold toMsf
  rw [if_neg (by simp only [leadIn]; omega)]
  rfl

@[simp] theorem msfRaw_m (a : Nat) : (msfRaw a).m = a / 4500 := rfl
@[simp] theorem msfRaw_s (a : Nat) : (msfRaw a).s = a / 75 % 60 := rfl
@[simp] theorem msfRaw_f (a : Nat) : (msfRaw a).f = a % 75 := rfl

/-- The sector of a time code whose fields are `msfRaw a` is `a` less the lead-in (R120, R121). -/
theorem toSector_msfRaw (a : Nat) : toSector (msfRaw a).m (msfRaw a).s (msfRaw a).f = (a : Int) - 150 := by
  simp only [toSector, msfRaw_m, msfRaw_s, msfRaw_f, secPerMin, framesPerSec, leadIn]
  omega

end Sys2Proof.Machine
end

