-- ==== Sys2Proof/Laws/State.lean ====
section
/-!
SUPPORT. One lemma per field per update: what each single write of the state leaves in each field. Later proofs
rewrite with these and never unfold a record update.
-/
namespace Sys2Proof.Machine

variable (s : State)

@[simp] theorem setStatus_cmd (st : Status) : (setStatus st s).cmd = s.cmd := rfl
@[simp] theorem setStatus_stat (st : Status) : (setStatus st s).stat = s.stat := rfl
@[simp] theorem setStatus_control (st : Status) : (setStatus st s).control = s.control := rfl
@[simp] theorem setStatus_play (st : Status) : (setStatus st s).play = { s.play with status := st } := rfl
@[simp] theorem setStatus_disc (st : Status) : (setStatus st s).disc = s.disc := rfl
@[simp] theorem setStatus_cfg (st : Status) : (setStatus st s).cfg = s.cfg := rfl
@[simp] theorem setStatus_inputs (st : Status) : (setStatus st s).inputs = s.inputs := rfl
@[simp] theorem setStatus_outputs (st : Status) : (setStatus st s).outputs = s.outputs := rfl
@[simp] theorem setStatus_draws (st : Status) : (setStatus st s).draws = s.draws := rfl

@[simp] theorem setSector_cmd (n : Int) : (setSector n s).cmd = s.cmd := rfl
@[simp] theorem setSector_stat (n : Int) : (setSector n s).stat = s.stat := rfl
@[simp] theorem setSector_control (n : Int) : (setSector n s).control = s.control := rfl
@[simp] theorem setSector_play (n : Int) : (setSector n s).play = { s.play with sector := n } := rfl
@[simp] theorem setSector_disc (n : Int) : (setSector n s).disc = s.disc := rfl
@[simp] theorem setSector_cfg (n : Int) : (setSector n s).cfg = s.cfg := rfl
@[simp] theorem setSector_inputs (n : Int) : (setSector n s).inputs = s.inputs := rfl
@[simp] theorem setSector_outputs (n : Int) : (setSector n s).outputs = s.outputs := rfl
@[simp] theorem setSector_draws (n : Int) : (setSector n s).draws = s.draws := rfl

@[simp] theorem setSampleOffset_cmd (n : Nat) : (setSampleOffset n s).cmd = s.cmd := rfl
@[simp] theorem setSampleOffset_stat (n : Nat) : (setSampleOffset n s).stat = s.stat := rfl
@[simp] theorem setSampleOffset_control (n : Nat) : (setSampleOffset n s).control = s.control := rfl
@[simp] theorem setSampleOffset_play (n : Nat) : (setSampleOffset n s).play = { s.play with sampleOffset := n } := rfl
@[simp] theorem setSampleOffset_disc (n : Nat) : (setSampleOffset n s).disc = s.disc := rfl
@[simp] theorem setSampleOffset_cfg (n : Nat) : (setSampleOffset n s).cfg = s.cfg := rfl
@[simp] theorem setSampleOffset_inputs (n : Nat) : (setSampleOffset n s).inputs = s.inputs := rfl
@[simp] theorem setSampleOffset_outputs (n : Nat) : (setSampleOffset n s).outputs = s.outputs := rfl
@[simp] theorem setSampleOffset_draws (n : Nat) : (setSampleOffset n s).draws = s.draws := rfl

@[simp] theorem setTrackNumber_cmd (n : TrackNumber) : (setTrackNumber n s).cmd = s.cmd := rfl
@[simp] theorem setTrackNumber_stat (n : TrackNumber) : (setTrackNumber n s).stat = s.stat := rfl
@[simp] theorem setTrackNumber_control (n : TrackNumber) : (setTrackNumber n s).control = s.control := rfl
@[simp] theorem setTrackNumber_play (n : TrackNumber) : (setTrackNumber n s).play = { s.play with track := n } := rfl
@[simp] theorem setTrackNumber_disc (n : TrackNumber) : (setTrackNumber n s).disc = s.disc := rfl
@[simp] theorem setTrackNumber_cfg (n : TrackNumber) : (setTrackNumber n s).cfg = s.cfg := rfl
@[simp] theorem setTrackNumber_inputs (n : TrackNumber) : (setTrackNumber n s).inputs = s.inputs := rfl
@[simp] theorem setTrackNumber_outputs (n : TrackNumber) : (setTrackNumber n s).outputs = s.outputs := rfl
@[simp] theorem setTrackNumber_draws (n : TrackNumber) : (setTrackNumber n s).draws = s.draws := rfl

@[simp] theorem emit_cmd (o : Output) : (emit o s).cmd = s.cmd := rfl
@[simp] theorem emit_stat (o : Output) : (emit o s).stat = s.stat := rfl
@[simp] theorem emit_control (o : Output) : (emit o s).control = s.control := rfl
@[simp] theorem emit_play (o : Output) : (emit o s).play = s.play := rfl
@[simp] theorem emit_disc (o : Output) : (emit o s).disc = s.disc := rfl
@[simp] theorem emit_cfg (o : Output) : (emit o s).cfg = s.cfg := rfl
@[simp] theorem emit_inputs (o : Output) : (emit o s).inputs = s.inputs := rfl
@[simp] theorem emit_outputs (o : Output) : (emit o s).outputs = s.outputs ++ [o] := rfl
@[simp] theorem emit_draws (o : Output) : (emit o s).draws = s.draws := rfl

@[simp] theorem replyStatus_cmd (st : Status) : (replyStatus st s).cmd = s.cmd := rfl
@[simp] theorem replyStatus_stat (st : Status) : (replyStatus st s).stat = { s.stat with n0 := statusCode s.cfg st } := rfl
@[simp] theorem replyStatus_control (st : Status) : (replyStatus st s).control = s.control := rfl
@[simp] theorem replyStatus_play (st : Status) : (replyStatus st s).play = s.play := rfl
@[simp] theorem replyStatus_disc (st : Status) : (replyStatus st s).disc = s.disc := rfl
@[simp] theorem replyStatus_cfg (st : Status) : (replyStatus st s).cfg = s.cfg := rfl
@[simp] theorem replyStatus_inputs (st : Status) : (replyStatus st s).inputs = s.inputs := rfl
@[simp] theorem replyStatus_outputs (st : Status) : (replyStatus st s).outputs = s.outputs := rfl
@[simp] theorem replyStatus_draws (st : Status) : (replyStatus st s).draws = s.draws := rfl

@[simp] theorem refreshStatus_cmd : (refreshStatus s).cmd = s.cmd := rfl
@[simp] theorem refreshStatus_stat : (refreshStatus s).stat = { s.stat with n0 := statusCode s.cfg s.play.status } := rfl
@[simp] theorem refreshStatus_control : (refreshStatus s).control = s.control := rfl
@[simp] theorem refreshStatus_play : (refreshStatus s).play = s.play := rfl
@[simp] theorem refreshStatus_disc : (refreshStatus s).disc = s.disc := rfl
@[simp] theorem refreshStatus_cfg : (refreshStatus s).cfg = s.cfg := rfl
@[simp] theorem refreshStatus_inputs : (refreshStatus s).inputs = s.inputs := rfl
@[simp] theorem refreshStatus_outputs : (refreshStatus s).outputs = s.outputs := rfl
@[simp] theorem refreshStatus_draws : (refreshStatus s).draws = s.draws := rfl

@[simp] theorem replyPayload_cmd (p1 p2 p3 p4 p5 p6 p7 p8 : Nib) : (replyPayload p1 p2 p3 p4 p5 p6 p7 p8 s).cmd = s.cmd := rfl
@[simp] theorem replyPayload_stat (p1 p2 p3 p4 p5 p6 p7 p8 : Nib) : (replyPayload p1 p2 p3 p4 p5 p6 p7 p8 s).stat = ⟨s.stat.n0, p1, p2, p3, p4, p5, p6, p7, p8, s.stat.n9⟩ := rfl
@[simp] theorem replyPayload_control (p1 p2 p3 p4 p5 p6 p7 p8 : Nib) : (replyPayload p1 p2 p3 p4 p5 p6 p7 p8 s).control = s.control := rfl
@[simp] theorem replyPayload_play (p1 p2 p3 p4 p5 p6 p7 p8 : Nib) : (replyPayload p1 p2 p3 p4 p5 p6 p7 p8 s).play = s.play := rfl
@[simp] theorem replyPayload_disc (p1 p2 p3 p4 p5 p6 p7 p8 : Nib) : (replyPayload p1 p2 p3 p4 p5 p6 p7 p8 s).disc = s.disc := rfl
@[simp] theorem replyPayload_cfg (p1 p2 p3 p4 p5 p6 p7 p8 : Nib) : (replyPayload p1 p2 p3 p4 p5 p6 p7 p8 s).cfg = s.cfg := rfl
@[simp] theorem replyPayload_inputs (p1 p2 p3 p4 p5 p6 p7 p8 : Nib) : (replyPayload p1 p2 p3 p4 p5 p6 p7 p8 s).inputs = s.inputs := rfl
@[simp] theorem replyPayload_outputs (p1 p2 p3 p4 p5 p6 p7 p8 : Nib) : (replyPayload p1 p2 p3 p4 p5 p6 p7 p8 s).outputs = s.outputs := rfl
@[simp] theorem replyPayload_draws (p1 p2 p3 p4 p5 p6 p7 p8 : Nib) : (replyPayload p1 p2 p3 p4 p5 p6 p7 p8 s).draws = s.draws := rfl

@[simp] theorem sealReply_cmd : (sealReply s).cmd = s.cmd := rfl
@[simp] theorem sealReply_stat : (sealReply s).stat = sealBank s.stat := rfl
@[simp] theorem sealReply_control : (sealReply s).control = s.control := rfl
@[simp] theorem sealReply_play : (sealReply s).play = s.play := rfl
@[simp] theorem sealReply_disc : (sealReply s).disc = s.disc := rfl
@[simp] theorem sealReply_cfg : (sealReply s).cfg = s.cfg := rfl
@[simp] theorem sealReply_inputs : (sealReply s).inputs = s.inputs := rfl
@[simp] theorem sealReply_outputs : (sealReply s).outputs = s.outputs := rfl
@[simp] theorem sealReply_draws : (sealReply s).draws = s.draws := rfl

@[simp] theorem writeDm_cmd (b : Bool) : (writeDm b s).cmd = s.cmd := rfl
@[simp] theorem writeDm_stat (b : Bool) : (writeDm b s).stat = s.stat := rfl
@[simp] theorem writeDm_play (b : Bool) : (writeDm b s).play = s.play := rfl
@[simp] theorem writeDm_disc (b : Bool) : (writeDm b s).disc = s.disc := rfl
@[simp] theorem writeDm_cfg (b : Bool) : (writeDm b s).cfg = s.cfg := rfl
@[simp] theorem writeDm_inputs (b : Bool) : (writeDm b s).inputs = s.inputs := rfl
@[simp] theorem writeDm_outputs (b : Bool) : (writeDm b s).outputs = s.outputs := rfl
@[simp] theorem writeDm_draws (b : Bool) : (writeDm b s).draws = s.draws := rfl

@[simp] theorem writeControl_cmd (w : Half) : (writeControl w s).cmd = s.cmd := rfl
@[simp] theorem writeControl_stat (w : Half) : (writeControl w s).stat = s.stat := rfl
@[simp] theorem writeControl_control (w : Half) : (writeControl w s).control = hostControl s.cfg s.control w := rfl
@[simp] theorem writeControl_play (w : Half) : (writeControl w s).play = s.play := rfl
@[simp] theorem writeControl_disc (w : Half) : (writeControl w s).disc = s.disc := rfl
@[simp] theorem writeControl_cfg (w : Half) : (writeControl w s).cfg = s.cfg := rfl
@[simp] theorem writeControl_inputs (w : Half) : (writeControl w s).inputs = s.inputs := rfl
@[simp] theorem writeControl_outputs (w : Half) : (writeControl w s).outputs = s.outputs := rfl
@[simp] theorem writeControl_draws (w : Half) : (writeControl w s).draws = s.draws := rfl

@[simp] theorem enterSector_cmd (n : Int) : (enterSector n s).cmd = s.cmd := rfl
@[simp] theorem enterSector_stat (n : Int) : (enterSector n s).stat = s.stat := rfl
@[simp] theorem enterSector_control (n : Int) : (enterSector n s).control = s.control := rfl
@[simp] theorem enterSector_play (n : Int) : (enterSector n s).play = { s.play with sector := n, sampleOffset := 0 } := rfl
@[simp] theorem enterSector_disc (n : Int) : (enterSector n s).disc = s.disc := rfl
@[simp] theorem enterSector_cfg (n : Int) : (enterSector n s).cfg = s.cfg := rfl
@[simp] theorem enterSector_inputs (n : Int) : (enterSector n s).inputs = s.inputs := rfl
@[simp] theorem enterSector_outputs (n : Int) : (enterSector n s).outputs = s.outputs := rfl
@[simp] theorem enterSector_draws (n : Int) : (enterSector n s).draws = s.draws := rfl

@[simp] theorem setDisc_cmd (d : Disc) (st : Status) : (setDisc d st s).cmd = s.cmd := rfl
@[simp] theorem setDisc_stat (d : Disc) (st : Status) : (setDisc d st s).stat = s.stat := rfl
@[simp] theorem setDisc_control (d : Disc) (st : Status) : (setDisc d st s).control = s.control := rfl
@[simp] theorem setDisc_play (d : Disc) (st : Status) : (setDisc d st s).play = .defaults st := rfl
@[simp] theorem setDisc_disc (d : Disc) (st : Status) : (setDisc d st s).disc = d := rfl
@[simp] theorem setDisc_cfg (d : Disc) (st : Status) : (setDisc d st s).cfg = s.cfg := rfl
@[simp] theorem setDisc_inputs (d : Disc) (st : Status) : (setDisc d st s).inputs = s.inputs := rfl
@[simp] theorem setDisc_outputs (d : Disc) (st : Status) : (setDisc d st s).outputs = s.outputs := rfl
@[simp] theorem setDisc_draws (d : Disc) (st : Status) : (setDisc d st s).draws = s.draws := rfl

@[simp] theorem takeEvent_cmd (rest : List Event) : (takeEvent rest s).cmd = s.cmd := rfl
@[simp] theorem takeEvent_stat (rest : List Event) : (takeEvent rest s).stat = s.stat := rfl
@[simp] theorem takeEvent_control (rest : List Event) : (takeEvent rest s).control = s.control := rfl
@[simp] theorem takeEvent_play (rest : List Event) : (takeEvent rest s).play = s.play := rfl
@[simp] theorem takeEvent_disc (rest : List Event) : (takeEvent rest s).disc = s.disc := rfl
@[simp] theorem takeEvent_cfg (rest : List Event) : (takeEvent rest s).cfg = s.cfg := rfl
@[simp] theorem takeEvent_inputs (rest : List Event) : (takeEvent rest s).inputs = rest := rfl
@[simp] theorem takeEvent_outputs (rest : List Event) : (takeEvent rest s).outputs = [] := rfl
@[simp] theorem takeEvent_draws (rest : List Event) : (takeEvent rest s).draws = s.draws := rfl

end Sys2Proof.Machine
end

