-- ==== Sys2Proof/Laws/Ops.lean ====
section
/-!
SUPPORT. Track bookkeeping and the two ticks: which fields they leave alone, and what each can do to the others.
-/
namespace Sys2Proof.Machine

/-! ### Fields that bookkeeping and the tick arms never write -/

@[simp] theorem setTrack_cmd (e : TrackEntry) (s : State) : (setTrack e s).cmd = s.cmd := by
  unfold setTrack; split <;> rfl
@[simp] theorem setTrack_stat (e : TrackEntry) (s : State) : (setTrack e s).stat = s.stat := by
  unfold setTrack; split <;> rfl
@[simp] theorem setTrack_disc (e : TrackEntry) (s : State) : (setTrack e s).disc = s.disc := by
  unfold setTrack; split <;> rfl
@[simp] theorem setTrack_cfg (e : TrackEntry) (s : State) : (setTrack e s).cfg = s.cfg := by
  unfold setTrack; split <;> rfl
@[simp] theorem setTrack_inputs (e : TrackEntry) (s : State) : (setTrack e s).inputs = s.inputs := by
  unfold setTrack; split <;> rfl
@[simp] theorem setTrack_outputs (e : TrackEntry) (s : State) : (setTrack e s).outputs = s.outputs := by
  unfold setTrack; split <;> rfl
@[simp] theorem setTrack_draws (e : TrackEntry) (s : State) : (setTrack e s).draws = s.draws := by
  unfold setTrack; split <;> rfl

@[simp] theorem enterLeadOut_cmd (s : State) : (enterLeadOut s).cmd = s.cmd := by
  rfl
@[simp] theorem enterLeadOut_stat (s : State) : (enterLeadOut s).stat = s.stat := by
  rfl
@[simp] theorem enterLeadOut_disc (s : State) : (enterLeadOut s).disc = s.disc := by
  rfl
@[simp] theorem enterLeadOut_cfg (s : State) : (enterLeadOut s).cfg = s.cfg := by
  rfl
@[simp] theorem enterLeadOut_inputs (s : State) : (enterLeadOut s).inputs = s.inputs := by
  rfl
@[simp] theorem enterLeadOut_outputs (s : State) : (enterLeadOut s).outputs = s.outputs := by
  rfl
@[simp] theorem enterLeadOut_draws (s : State) : (enterLeadOut s).draws = s.draws := by
  rfl
@[simp] theorem enterLeadOut_control (s : State) : (enterLeadOut s).control = s.control := by
  rfl

@[simp] theorem refreshTrack_cmd (s : State) : (refreshTrack s).cmd = s.cmd := by
  unfold refreshTrack; split
  · simp
  · split <;> simp
@[simp] theorem refreshTrack_stat (s : State) : (refreshTrack s).stat = s.stat := by
  unfold refreshTrack; split
  · simp
  · split <;> simp
@[simp] theorem refreshTrack_disc (s : State) : (refreshTrack s).disc = s.disc := by
  unfold refreshTrack; split
  · simp
  · split <;> simp
@[simp] theorem refreshTrack_cfg (s : State) : (refreshTrack s).cfg = s.cfg := by
  unfold refreshTrack; split
  · simp
  · split <;> simp
@[simp] theorem refreshTrack_inputs (s : State) : (refreshTrack s).inputs = s.inputs := by
  unfold refreshTrack; split
  · simp
  · split <;> simp
@[simp] theorem refreshTrack_outputs (s : State) : (refreshTrack s).outputs = s.outputs := by
  unfold refreshTrack; split
  · simp
  · split <;> simp
@[simp] theorem refreshTrack_draws (s : State) : (refreshTrack s).draws = s.draws := by
  unfold refreshTrack; split
  · simp
  · split <;> simp

@[simp] theorem finishToc_cmd (s : State) : (finishToc s).cmd = s.cmd := by
  simp [finishToc]
@[simp] theorem finishToc_stat (s : State) : (finishToc s).stat = s.stat := by
  simp [finishToc]
@[simp] theorem finishToc_disc (s : State) : (finishToc s).disc = s.disc := by
  simp [finishToc]
@[simp] theorem finishToc_cfg (s : State) : (finishToc s).cfg = s.cfg := by
  simp [finishToc]
@[simp] theorem finishToc_inputs (s : State) : (finishToc s).inputs = s.inputs := by
  simp [finishToc]
@[simp] theorem finishToc_outputs (s : State) : (finishToc s).outputs = s.outputs := by
  simp [finishToc]
@[simp] theorem finishToc_draws (s : State) : (finishToc s).draws = s.draws := by
  simp [finishToc]

@[simp] theorem finishSeek_cmd (s : State) : (finishSeek s).cmd = s.cmd := by
  simp [finishSeek]
@[simp] theorem finishSeek_stat (s : State) : (finishSeek s).stat = s.stat := by
  simp [finishSeek]
@[simp] theorem finishSeek_disc (s : State) : (finishSeek s).disc = s.disc := by
  simp [finishSeek]
@[simp] theorem finishSeek_cfg (s : State) : (finishSeek s).cfg = s.cfg := by
  simp [finishSeek]
@[simp] theorem finishSeek_inputs (s : State) : (finishSeek s).inputs = s.inputs := by
  simp [finishSeek]
@[simp] theorem finishSeek_outputs (s : State) : (finishSeek s).outputs = s.outputs := by
  simp [finishSeek]
@[simp] theorem finishSeek_draws (s : State) : (finishSeek s).draws = s.draws := by
  simp [finishSeek]

@[simp] theorem tickReadingToc_cmd (s : State) : (tickReadingToc s).cmd = s.cmd := by
  simp only [tickReadingToc]; split <;> simp
@[simp] theorem tickReadingToc_stat (s : State) : (tickReadingToc s).stat = s.stat := by
  simp only [tickReadingToc]; split <;> simp
@[simp] theorem tickReadingToc_disc (s : State) : (tickReadingToc s).disc = s.disc := by
  simp only [tickReadingToc]; split <;> simp
@[simp] theorem tickReadingToc_cfg (s : State) : (tickReadingToc s).cfg = s.cfg := by
  simp only [tickReadingToc]; split <;> simp
@[simp] theorem tickReadingToc_inputs (s : State) : (tickReadingToc s).inputs = s.inputs := by
  simp only [tickReadingToc]; split <;> simp
@[simp] theorem tickReadingToc_outputs (s : State) : (tickReadingToc s).outputs = s.outputs := by
  simp only [tickReadingToc]; split <;> simp
@[simp] theorem tickReadingToc_draws (s : State) : (tickReadingToc s).draws = s.draws := by
  simp only [tickReadingToc]; split <;> simp

@[simp] theorem tickSeeking_cmd (s : State) : (tickSeeking s).cmd = s.cmd := by
  simp only [tickSeeking]; split <;> simp
@[simp] theorem tickSeeking_stat (s : State) : (tickSeeking s).stat = s.stat := by
  simp only [tickSeeking]; split <;> simp
@[simp] theorem tickSeeking_disc (s : State) : (tickSeeking s).disc = s.disc := by
  simp only [tickSeeking]; split <;> simp
@[simp] theorem tickSeeking_cfg (s : State) : (tickSeeking s).cfg = s.cfg := by
  simp only [tickSeeking]; split <;> simp
@[simp] theorem tickSeeking_inputs (s : State) : (tickSeeking s).inputs = s.inputs := by
  simp only [tickSeeking]; split <;> simp
@[simp] theorem tickSeeking_outputs (s : State) : (tickSeeking s).outputs = s.outputs := by
  simp only [tickSeeking]; split <;> simp
@[simp] theorem tickSeeking_draws (s : State) : (tickSeeking s).draws = s.draws := by
  simp only [tickSeeking]; split <;> simp

@[simp] theorem endTest_cmd (s : State) : (endTest s).cmd = s.cmd := by
  simp only [endTest]; split <;> simp
@[simp] theorem endTest_stat (s : State) : (endTest s).stat = s.stat := by
  simp only [endTest]; split <;> simp
@[simp] theorem endTest_disc (s : State) : (endTest s).disc = s.disc := by
  simp only [endTest]; split <;> simp
@[simp] theorem endTest_cfg (s : State) : (endTest s).cfg = s.cfg := by
  simp only [endTest]; split <;> simp
@[simp] theorem endTest_inputs (s : State) : (endTest s).inputs = s.inputs := by
  simp only [endTest]; split <;> simp
@[simp] theorem endTest_outputs (s : State) : (endTest s).outputs = s.outputs := by
  simp only [endTest]; split <;> simp
@[simp] theorem endTest_draws (s : State) : (endTest s).draws = s.draws := by
  simp only [endTest]; split <;> simp

@[simp] theorem tickPlaying_cmd (s : State) : (tickPlaying s).cmd = s.cmd := by
  simp only [tickPlaying]; split <;> simp
@[simp] theorem tickPlaying_stat (s : State) : (tickPlaying s).stat = s.stat := by
  simp only [tickPlaying]; split <;> simp
@[simp] theorem tickPlaying_disc (s : State) : (tickPlaying s).disc = s.disc := by
  simp only [tickPlaying]; split <;> simp
@[simp] theorem tickPlaying_cfg (s : State) : (tickPlaying s).cfg = s.cfg := by
  simp only [tickPlaying]; split <;> simp
@[simp] theorem tickPlaying_inputs (s : State) : (tickPlaying s).inputs = s.inputs := by
  simp only [tickPlaying]; split <;> simp
@[simp] theorem tickPlaying_outputs (s : State) : (tickPlaying s).outputs = s.outputs := by
  simp only [tickPlaying]; split <;> simp
@[simp] theorem tickPlaying_draws (s : State) : (tickPlaying s).draws = s.draws := by
  simp only [tickPlaying]; split <;> simp

@[simp] theorem pollArm_cmd (s : State) : (pollArm s).cmd = s.cmd := by
  unfold pollArm; split <;> simp [tickStopped]
@[simp] theorem pollArm_stat (s : State) : (pollArm s).stat = s.stat := by
  unfold pollArm; split <;> simp [tickStopped]
@[simp] theorem pollArm_disc (s : State) : (pollArm s).disc = s.disc := by
  unfold pollArm; split <;> simp [tickStopped]
@[simp] theorem pollArm_cfg (s : State) : (pollArm s).cfg = s.cfg := by
  unfold pollArm; split <;> simp [tickStopped]
@[simp] theorem pollArm_inputs (s : State) : (pollArm s).inputs = s.inputs := by
  unfold pollArm; split <;> simp [tickStopped]
@[simp] theorem pollArm_outputs (s : State) : (pollArm s).outputs = s.outputs := by
  unfold pollArm; split <;> simp [tickStopped]
@[simp] theorem pollArm_draws (s : State) : (pollArm s).draws = s.draws := by
  unfold pollArm; split <;> simp [tickStopped]

@[simp] theorem pollTick_cmd (s : State) : (pollTick s).cmd = s.cmd := by
  simp only [pollTick]; split <;> simp
@[simp] theorem pollTick_stat (s : State) : (pollTick s).stat = s.stat := by
  simp only [pollTick]; split <;> simp
@[simp] theorem pollTick_disc (s : State) : (pollTick s).disc = s.disc := by
  simp only [pollTick]; split <;> simp
@[simp] theorem pollTick_cfg (s : State) : (pollTick s).cfg = s.cfg := by
  simp only [pollTick]; split <;> simp
@[simp] theorem pollTick_inputs (s : State) : (pollTick s).inputs = s.inputs := by
  simp only [pollTick]; split <;> simp
@[simp] theorem pollTick_draws (s : State) : (pollTick s).draws = s.draws := by
  simp only [pollTick]; split <;> simp

@[simp] theorem advance_cmd (s : State) : (advance s).cmd = s.cmd := by
  unfold advance; split <;> simp
@[simp] theorem advance_stat (s : State) : (advance s).stat = s.stat := by
  unfold advance; split <;> simp
@[simp] theorem advance_disc (s : State) : (advance s).disc = s.disc := by
  unfold advance; split <;> simp
@[simp] theorem advance_cfg (s : State) : (advance s).cfg = s.cfg := by
  unfold advance; split <;> simp
@[simp] theorem advance_inputs (s : State) : (advance s).inputs = s.inputs := by
  unfold advance; split <;> simp
@[simp] theorem advance_outputs (s : State) : (advance s).outputs = s.outputs := by
  unfold advance; split <;> simp
@[simp] theorem advance_draws (s : State) : (advance s).draws = s.draws := by
  unfold advance; split <;> simp

@[simp] theorem stepSample_cmd (e : TrackEntry) (s : State) : (stepSample e s).cmd = s.cmd := by
  simp only [stepSample]; split <;> simp
@[simp] theorem stepSample_stat (e : TrackEntry) (s : State) : (stepSample e s).stat = s.stat := by
  simp only [stepSample]; split <;> simp
@[simp] theorem stepSample_disc (e : TrackEntry) (s : State) : (stepSample e s).disc = s.disc := by
  simp only [stepSample]; split <;> simp
@[simp] theorem stepSample_cfg (e : TrackEntry) (s : State) : (stepSample e s).cfg = s.cfg := by
  simp only [stepSample]; split <;> simp
@[simp] theorem stepSample_inputs (e : TrackEntry) (s : State) : (stepSample e s).inputs = s.inputs := by
  simp only [stepSample]; split <;> simp
@[simp] theorem stepSample_outputs (e : TrackEntry) (s : State) : (stepSample e s).outputs = s.outputs := by
  simp only [stepSample]; split <;> simp
@[simp] theorem stepSample_draws (e : TrackEntry) (s : State) : (stepSample e s).draws = s.draws := by
  simp only [stepSample]; split <;> simp

@[simp] theorem audioTick_cmd (io : TrackIo) (s : State) : (audioTick io s).cmd = s.cmd := by
  unfold audioTick emitSample; split <;> simp
@[simp] theorem audioTick_stat (io : TrackIo) (s : State) : (audioTick io s).stat = s.stat := by
  unfold audioTick emitSample; split <;> simp
@[simp] theorem audioTick_disc (io : TrackIo) (s : State) : (audioTick io s).disc = s.disc := by
  unfold audioTick emitSample; split <;> simp
@[simp] theorem audioTick_cfg (io : TrackIo) (s : State) : (audioTick io s).cfg = s.cfg := by
  unfold audioTick emitSample; split <;> simp
@[simp] theorem audioTick_inputs (io : TrackIo) (s : State) : (audioTick io s).inputs = s.inputs := by
  unfold audioTick emitSample; split <;> simp
@[simp] theorem audioTick_draws (io : TrackIo) (s : State) : (audioTick io s).draws = s.draws := by
  unfold audioTick emitSample; split <;> simp

@[simp] theorem keepOffsetRange_cmd (b s : State) : (keepOffsetRange b s).cmd = s.cmd := by
  unfold keepOffsetRange; split <;> rfl
@[simp] theorem keepOffsetRange_stat (b s : State) : (keepOffsetRange b s).stat = s.stat := by
  unfold keepOffsetRange; split <;> rfl
@[simp] theorem keepOffsetRange_control (b s : State) : (keepOffsetRange b s).control = s.control := by
  unfold keepOffsetRange; split <;> rfl
@[simp] theorem keepOffsetRange_disc (b s : State) : (keepOffsetRange b s).disc = s.disc := by
  unfold keepOffsetRange; split <;> rfl
@[simp] theorem keepOffsetRange_cfg (b s : State) : (keepOffsetRange b s).cfg = s.cfg := by
  unfold keepOffsetRange; split <;> rfl
@[simp] theorem keepOffsetRange_inputs (b s : State) : (keepOffsetRange b s).inputs = s.inputs := by
  unfold keepOffsetRange; split <;> rfl
@[simp] theorem keepOffsetRange_outputs (b s : State) : (keepOffsetRange b s).outputs = s.outputs := by
  unfold keepOffsetRange; split <;> rfl
@[simp] theorem keepOffsetRange_draws (b s : State) : (keepOffsetRange b s).draws = s.draws := by
  unfold keepOffsetRange; split <;> rfl

@[simp] theorem audioEvent_cmd (io : TrackIo) (s : State) : (audioEvent io s).cmd = s.cmd := by
  simp [audioEvent]
@[simp] theorem audioEvent_stat (io : TrackIo) (s : State) : (audioEvent io s).stat = s.stat := by
  simp [audioEvent]
@[simp] theorem audioEvent_control (io : TrackIo) (s : State) : (audioEvent io s).control = (audioTick io s).control := by
  simp [audioEvent]
@[simp] theorem audioEvent_disc (io : TrackIo) (s : State) : (audioEvent io s).disc = s.disc := by
  simp [audioEvent]
@[simp] theorem audioEvent_cfg (io : TrackIo) (s : State) : (audioEvent io s).cfg = s.cfg := by
  simp [audioEvent]
@[simp] theorem audioEvent_inputs (io : TrackIo) (s : State) : (audioEvent io s).inputs = s.inputs := by
  simp [audioEvent]
@[simp] theorem audioEvent_outputs (io : TrackIo) (s : State) : (audioEvent io s).outputs = (audioTick io s).outputs := by
  simp [audioEvent]
@[simp] theorem audioEvent_draws (io : TrackIo) (s : State) : (audioEvent io s).draws = s.draws := by
  simp [audioEvent]

/-- What a Polling Tick emits does not depend on its arm (R260). -/
@[simp] theorem pollTick_outputs (s : State) : (pollTick s).outputs = s.outputs ++ pollOutputs s := by
  simp only [pollTick]; split <;> simp

/-- What an enabled tick is (R260, R261). -/
theorem pollTick_enabled {s : State} (h : ticking s = true) :
    pollTick s = pollArm { s with outputs := s.outputs ++ pollOutputs s } := by
  have h' : ticking { s with outputs := s.outputs ++ pollOutputs s } = true := h
  simp only [pollTick, h', if_true]

/-- What a disabled tick is (R260, R261). -/
theorem pollTick_disabled {s : State} (h : ticking s = false) :
    pollTick s = { s with outputs := s.outputs ++ pollOutputs s } := by
  have h' : ticking { s with outputs := s.outputs ++ pollOutputs s } = false := h
  simp [pollTick, h']

/-! ### What bookkeeping does to the playback state -/

theorem setTrack_play (e : TrackEntry) (s : State) : (setTrack e s).play = { s.play with track := e.number } := by
  unfold setTrack
  split
  · rename_i h; rw [h]
  · rfl

theorem enterLeadOut_play (s : State) :
    (enterLeadOut s).play = { s.play with status := .leadOut, track := leadoutNumber s.cfg } := rfl

/-- `refreshTrack` finds a track, or leaves the disc below 0, or past its end (R131). -/
theorem refreshTrack_play (s : State) :
    (∃ e, trackForSector s s.play.sector = some e ∧ (refreshTrack s).play = { s.play with track := e.number })
    ∨ (trackForSector s s.play.sector = none ∧ s.play.sector < 0
        ∧ (refreshTrack s).play = { s.play with track := 0 })
    ∨ (trackForSector s s.play.sector = none ∧ 0 ≤ s.play.sector
        ∧ (refreshTrack s).play = { s.play with status := .leadOut, track := leadoutNumber s.cfg }) := by
  unfold refreshTrack
  split
  · rename_i e h; exact .inl ⟨e, h, setTrack_play e s⟩
  · rename_i h
    split
    · rename_i h'; exact .inr (.inl ⟨h, h', rfl⟩)
    · rename_i h'; exact .inr (.inr ⟨h, by omega, rfl⟩)

/-- Lookups read the disc state and one parameter only. -/
theorem trackForSector_congr {s t : State} (hd : t.disc = s.disc) (hc : t.cfg = s.cfg) (n : Int) :
    trackForSector t n = trackForSector s n := by
  simp [trackForSector, hd, hc]

/-- The current entry depends on the disc state, the parameters and the track number only. -/
theorem curEntry_congr {s t : State} (hd : t.disc = s.disc) (hc : t.cfg = s.cfg) (hp : t.play.track = s.play.track) :
    curEntry t = curEntry s := by
  simp [curEntry, trackEntry, hd, hc, hp]

/-! ### `CONTROL` -/

/-- The mask has the one bit it names (R23). -/
theorem controlMask_getLsbD {d : Nat} (hd : d < 16) (k : Nat) : (controlMask d).getLsbD k = decide (k = d) := by
  simp only [controlMask, BitVec.getLsbD_shiftLeft, BitVec.getLsbD_one]
  by_cases hk : k = d
  · subst hk; simp [hd]
  · have : k < d ∨ k - d ≠ 0 := by omega
    rcases this with h | h <;> simp [h, hk]

/-- `DM` reads as it was written, where it is a bit of `CONTROL` (R23, R129). -/
theorem dm_writeDm (b : Bool) (s : State) (h : s.cfg.dmBit < 16) : dm (writeDm b s) = b := by
  have hm : (controlMask s.cfg.dmBit)[s.cfg.dmBit] = true := by
    rw [← BitVec.getLsbD_eq_getElem h, controlMask_getLsbD h]; simp
  cases b <;> simp [dm, writeDm, h, hm]

/-- A write of `DM` leaves every other bit of `CONTROL` (R129). -/
theorem writeDm_getLsbD (b : Bool) (s : State) {k : Nat} (h : k ≠ s.cfg.dmBit) :
    (writeDm b s).control.getLsbD k = s.control.getLsbD k := by
  have hm : (controlMask s.cfg.dmBit).getLsbD k = false := by
    simp only [controlMask, BitVec.getLsbD_shiftLeft, BitVec.getLsbD_one]
    have : k < s.cfg.dmBit ∨ k - s.cfg.dmBit ≠ 0 := by omega
    rcases this with h | h <;> simp [h]
  unfold writeDm
  cases b
  · by_cases hk : k < 16
    · rw [BitVec.getLsbD_eq_getElem hk] at hm
      simp [hm, hk]
    · simp [BitVec.getLsbD_of_ge _ _ (Nat.le_of_not_lt hk)]
  · simp [hm]

/-- A track that is current already is not entered again (R129). -/
theorem setTrack_self {e : TrackEntry} {s : State} (h : e.number = s.play.track) : setTrack e s = s := if_pos h

/-- Entering another track makes `DM` tell its type (R129). -/
theorem dm_setTrack {e : TrackEntry} {s : State} (h : e.number ≠ s.play.track) (hd : s.cfg.dmBit < 16) :
    dm (setTrack e s) = dmOfType s.cfg e.type := by
  rw [setTrack, if_neg h]
  exact dm_writeDm _ (setTrackNumber e.number s) hd

/-- A host write of `CONTROL` keeps `DM` (R67). -/
theorem dm_writeControl (w : Half) (s : State) : dm (writeControl w s) = dm s := by
  simp only [dm, writeControl, hostControl, controlMask]
  by_cases h : s.cfg.dmBit < 16
  · simp [h]
  · simp [BitVec.getLsbD_of_ge _ _ (Nat.le_of_not_lt h)]

theorem setTrack_getLsbD (e : TrackEntry) (s : State) {k : Nat} (h : k ≠ s.cfg.dmBit) :
    (setTrack e s).control.getLsbD k = s.control.getLsbD k := by
  unfold setTrack
  split
  · rfl
  · exact writeDm_getLsbD _ _ h

theorem refreshTrack_getLsbD (s : State) {k : Nat} (h : k ≠ s.cfg.dmBit) :
    (refreshTrack s).control.getLsbD k = s.control.getLsbD k := by
  unfold refreshTrack
  split
  · exact setTrack_getLsbD _ s h
  · split <;> rfl

theorem stepSample_getLsbD (e : TrackEntry) (s : State) {k : Nat} (h : k ≠ s.cfg.dmBit) :
    (stepSample e s).control.getLsbD k = s.control.getLsbD k := by
  simp only [stepSample]
  split
  · unfold advance
    split
    · exact setTrack_getLsbD _ _ h
    · rfl
  · rfl

/-- A Polling Tick writes no bit of `CONTROL` but `DM` (R25). -/
theorem pollArm_getLsbD (s : State) {k : Nat} (h : k ≠ s.cfg.dmBit) :
    (pollArm s).control.getLsbD k = s.control.getLsbD k := by
  unfold pollArm
  split <;> try rfl
  · simp only [tickReadingToc]
    split
    · exact refreshTrack_getLsbD _ h
    · rfl
  · simp only [tickSeeking]
    split
    · exact refreshTrack_getLsbD _ h
    · rfl
  · simp only [tickPlaying, endTest]
    split <;> split <;> first | rfl | exact refreshTrack_getLsbD (setSector (s.play.sector + 1) s) h

/-! ### `latency` -/

@[simp] theorem refreshTrack_latency (s : State) : (refreshTrack s).play.latency = s.play.latency := by
  obtain ⟨_, -, h⟩ | ⟨-, -, h⟩ | ⟨-, -, h⟩ := refreshTrack_play s <;> rw [h]

@[simp] theorem stepSample_latency (e : TrackEntry) (s : State) : (stepSample e s).play.latency = s.play.latency := by
  simp only [stepSample]
  split
  · unfold advance
    split
    · simp only [enterSector, setTrack_play, setSampleOffset_play]
    · rfl
  · rfl

/-- The value of `track` in LeadOut is the parameter's. -/
@[simp] theorem leadoutNumber_val (c : Config) : (leadoutNumber c).val = c.leadoutTrack.toNat := rfl

/-- Everything the range of R36 can do to what a tick leaves: nothing, or one write of the sector size in LeadOut. -/
theorem keepOffsetRange_cases (b t : State) :
    (¬ (b.cfg.offsetBounded = true ∧ b.play.sampleOffset = 2352 ∧ t.play.status = .leadOut
        ∧ t.play.sampleOffset = 2356) ∧ keepOffsetRange b t = t)
    ∨ (b.cfg.offsetBounded = true ∧ b.play.sampleOffset = 2352 ∧ t.play.status = .leadOut
        ∧ t.play.sampleOffset = 2356 ∧ keepOffsetRange b t = setSampleOffset 2352 t) := by
  unfold keepOffsetRange sectorSize sampleBytes
  split
  · rename_i h
    exact .inr ⟨h.1, h.2.1, h.2.2.1, h.2.2.2, rfl⟩
  · rename_i h
    exact .inl ⟨h, rfl⟩

/-- Without the bound nothing happens to the sum (R130, R290). -/
theorem keepOffsetRange_unbounded {b : State} (h : b.cfg.offsetBounded = false) (t : State) :
    keepOffsetRange b t = t := if_neg (by simp [h])

@[simp] theorem keepOffsetRange_latency (b t : State) : (keepOffsetRange b t).play.latency = t.play.latency := by
  unfold keepOffsetRange; split <;> rfl

/-- Everything a reading tick can do to the playback state: another sample of the sector, the start of the next
sector, or LeadOut (R290, R295, R296). -/
theorem stepSample_play (e : TrackEntry) (s : State) :
    (s.play.sampleOffset + 4 < e.sectorSize
      ∧ (stepSample e s).play = { s.play with sampleOffset := s.play.sampleOffset + 4 })
    ∨ (e.sectorSize ≤ s.play.sampleOffset + 4 ∧ ∃ e2, trackForSector s (s.play.sector + 1) = some e2
      ∧ (stepSample e s).play = { s.play with track := e2.number, sector := s.play.sector + 1, sampleOffset := 0 })
    ∨ (e.sectorSize ≤ s.play.sampleOffset + 4 ∧ trackForSector s (s.play.sector + 1) = none
      ∧ (stepSample e s).play = { s.play with
          status := .leadOut, track := leadoutNumber s.cfg,
          sampleOffset := s.play.sampleOffset + 4 }) := by
  have ht (p : Playback) : trackForSector { s with play := p } (s.play.sector + 1)
      = trackForSector s (s.play.sector + 1) := rfl
  simp only [stepSample, advance, setSampleOffset, sampleBytes, ht]
  split
  · rename_i h
    split
    · rename_i e2 h2
      exact .inr (.inl ⟨h, e2, h2, by simp only [enterSector, setTrack_play]⟩)
    · rename_i h2
      exact .inr (.inr ⟨h, h2, rfl⟩)
  · rename_i h
    exact .inl ⟨by omega, rfl⟩

/-- A Polling Tick counts `latency` down in Seeking only (R264, R270). -/
theorem pollArm_latency (s : State) :
    (pollArm s).play.latency = if s.play.status = .seeking then s.play.latency - 1 else s.play.latency := by
  unfold pollArm
  split <;> rename_i hs <;> simp only [hs] <;> try rfl
  · simp only [tickReadingToc]
    split
    · simp only [finishToc, refreshTrack_latency]; rfl
    · rfl
  · simp only [tickSeeking]
    split
    · simp only [finishSeek, refreshTrack_latency]; rfl
    · rfl
  · simp only [tickPlaying, endTest]
    split <;> split <;> simp [enterLeadOut_play]

end Sys2Proof.Machine
end

