-- ==== Sys2Proof/Laws/Exec.lean ====
section
/-!
SUPPORT. Everything a command can do (41_latch_checksum_dispatch.md R157, R159): `exec_result`, from which the frames
of the commands and the invariants follow without unfolding any meaning.
-/
namespace Sys2Proof.Machine

/-- What a command may do to the playback state `p` to leave `q`. -/
inductive CommandMove (c : Config) (p : Playback) : Playback → Prop where
  | stay : CommandMove c p p
  | enter (st : Status) (h : st ∈ [.playing, .paused, .scanning, .doorOpened, .readingToc, .noDisc]) :
      CommandMove c p { p with status := st }
  | seek (st : Status) (n : Int) (h : st ∈ [.playing, .paused]) (hn : -150 ≤ n) :
      CommandMove c p (seekPlayback c st n p)

/-- `t` differs from `s` by what a command may write: the reply but for its checksum, the playback state by a
`CommandMove`, the draws. -/
def CommandNext (s t : State) : Prop :=
  ∃ (st : Bank) (q : Playback) (n : Nat), t = { s with stat := st, play := q, draws := n }
    ∧ st.n9 = s.stat.n9 ∧ CommandMove s.cfg s.play q

theorem buildAbs_cases (s : State) :
    (∃ t, toMsf s.play.sector = some t ∧ buildAbs s = .next (replyTime (s.cfg.reqCode .absoluteTime) t (blockFlag s) s))
    ∨ (s.play.sector < -150 ∧ buildAbs s = .refused (.timeCodeBelowLeadIn s.play.sector)) := by
  unfold buildAbs
  split
  · rename_i t h; exact .inl ⟨t, h, rfl⟩
  · rename_i h; exact .inr ⟨toMsf_none_iff.mp h, rfl⟩

/-- What a command can answer. -/
def CommandResult (s : State) (r : Result) : Prop :=
  (∃ t, r = .next t ∧ CommandNext s t)
  ∨ (s.play.sector < -150 ∧ r = .refused (.timeCodeBelowLeadIn s.play.sector))

theorem commandNext_self (s : State) : CommandNext s s := ⟨s.stat, s.play, s.draws, rfl, rfl, .stay⟩

/-- A reply, over a status refresh, is a command's next state. -/
theorem commandNext_payload (p1 p2 p3 p4 p5 p6 p7 p8 : Nib) {s t : State} (h : CommandNext s t) :
    CommandNext s (replyPayload p1 p2 p3 p4 p5 p6 p7 p8 t) := by
  obtain ⟨st, q, n, rfl, h9, hq⟩ := h
  exact ⟨_, q, n, rfl, h9, hq⟩

theorem commandNext_replyStatus (x : Status) {s t : State} (h : CommandNext s t) :
    CommandNext s (replyStatus x t) := by
  obtain ⟨st, q, n, rfl, h9, hq⟩ := h
  exact ⟨_, q, n, rfl, h9, hq⟩

theorem commandNext_refresh {s t : State} (h : CommandNext s t) : CommandNext s (refreshStatus t) :=
  commandNext_replyStatus _ h

theorem commandNext_setStatus (s : State) {st : Status}
    (h : st ∈ [.playing, .paused, .scanning, .doorOpened, .readingToc, .noDisc]) : CommandNext s (setStatus st s) :=
  ⟨s.stat, _, s.draws, rfl, rfl, .enter st h⟩

theorem commandNext_seek (s : State) {st : Status} {n : Int} (h : st ∈ [.playing, .paused]) (hn : -150 ≤ n) :
    CommandNext s (seek st n s) :=
  ⟨_, _, s.draws, rfl, rfl, .seek st n h hn⟩

theorem commandNext_free {s t : State} (h : CommandNext s t) : CommandNext s (replyFreePayload t) := by
  obtain ⟨st, q, n, rfl, h9, hq⟩ := h
  exact ⟨_, q, _, rfl, h9, hq⟩

theorem commandResult_next {s t : State} (h : CommandNext s t) : CommandResult s (.next t) := .inl ⟨t, rfl, h⟩

theorem commandResult_abs {s t : State} (h : CommandNext s t) (hs : t.play.sector = s.play.sector) :
    CommandResult s (buildAbs t) := by
  obtain ⟨m, -, e⟩ | ⟨hlt, e⟩ := buildAbs_cases t
  · rw [e]; exact commandResult_next (commandNext_payload _ _ _ _ _ _ _ _ h)
  · rw [e, hs]; exact .inr ⟨hs ▸ hlt, rfl⟩

/-- Everything a command can do. -/
theorem exec_result (i : Instr) (s : State) : CommandResult s (exec i s) := by
  have hr := commandNext_refresh (commandNext_self s)
  cases i with
  | driveStatus =>
    simp only [exec, execDriveStatus]
    split
    · unfold repeatReport
      split
      · exact commandResult_abs hr rfl
      split
      · exact commandResult_next (commandNext_payload _ _ _ _ _ _ _ _ hr)
      split
      · exact commandResult_next (commandNext_payload _ _ _ _ _ _ _ _ hr)
      split
      · exact commandResult_next (commandNext_payload _ _ _ _ _ _ _ _ hr)
      · exact commandResult_next hr
    · exact commandResult_next (commandNext_self s)
  | requestAbs => exact commandResult_abs hr rfl
  | requestTstart a b =>
    simp only [exec, execRequestTstart]
    split
    · exact commandResult_next (commandNext_payload _ _ _ _ _ _ _ _ hr)
    · exact commandResult_next (commandNext_free hr)
  | stop | doorClose =>
    refine commandResult_next (commandNext_payload _ _ _ _ _ _ _ _ (commandNext_replyStatus _ ?_))
    apply commandNext_setStatus
    split <;> decide
  | doorOpen =>
    exact commandResult_next (commandNext_payload _ _ _ _ _ _ _ _ (commandNext_replyStatus _
      (commandNext_setStatus s (by decide))))
  | pause | play | forward | reverse | trackSkip =>
    exact commandResult_next (commandNext_replyStatus _ (commandNext_setStatus s (by decide)))
  | seekPlay => exact commandResult_next (commandNext_seek s (by decide) (seekTarget_ge ..))
  | seekPause => exact commandResult_next (commandNext_seek s (by decide) (seekTarget_ge ..))
  | requestRel | requestTrack | requestTotal | requestTracks | requestError =>
    exact commandResult_next (commandNext_payload _ _ _ _ _ _ _ _ hr)
  | requestUnassigned7 | requestUnassigned8F | trackCue | unassigned5 | unassignedE | unassignedF =>
    exact commandResult_next hr

end Sys2Proof.Machine
end

