-- ==== Sys2Proof/Laws/Bus.lean ====
section
/-!
SUPPORT. Everything an executed packet, a byte write and a bus write can do (20_memory.md R61 to R69,
41_latch_checksum_dispatch.md R154, R155).
-/
namespace Sys2Proof.Machine

/-! ### The map (R61) -/

/-- The status bank's bytes (R61, R62). -/
theorem target_stat (c : Config) (i : Fin 10) : target c (offStat0 c + i) = .stat i := by
  have := i.isLt
  unfold target
  rw [dif_pos ⟨by omega, by omega⟩]
  congr
  simp

/-- The command bank's bytes (R61, R62). -/
theorem target_cmd (c : Config) (i : Fin 10) : target c (offCmd0 c + i) = .cmd i := by
  have := i.isLt
  unfold target
  rw [dif_neg (by simp only [offStat0, offCmd0]; omega), dif_pos ⟨by omega, by omega⟩]
  congr
  simp

/-- Which byte stands for a nibble of the command bank (R61, R62). -/
theorem target_cmd_inj {c : Config} {a : Nat} {i : Fin 10} (h : target c a = .cmd i) : a = offCmd0 c + i := by
  unfold target at h
  split at h
  · cases h
  split at h
  · rename_i h'
    simp only [Target.cmd.injEq, Fin.ext_iff] at h
    omega
  · split at h
    · cases h
    split at h
    · cases h
    split at h <;> cases h

/-- Which byte stands for a nibble of the status bank (R61, R62). -/
theorem target_stat_inj {c : Config} {a : Nat} {i : Fin 10} (h : target c a = .stat i) : a = offStat0 c + i := by
  unfold target at h
  split at h
  · rename_i h'
    simp only [Target.stat.injEq, Fin.ext_iff] at h
    omega
  split at h
  · cases h
  · split at h
    · cases h
    split at h
    · cases h
    split at h <;> cases h

/-- Only one byte of the window is the trigger (R154). -/
theorem target_eq_trigger {c : Config} {a : Nat} (h : target c a = .cmd 9) : a = offTrigger c := target_cmd_inj h

/-- What the bus rules need of good parameters: no two registers of the window overlap (R61). -/
theorem Config.wf_window {c : Config} (h : c.wf = true) :
    (c.offFader + 2 ≤ c.offControl ∨ c.offControl + 2 ≤ c.offFader)
      ∧ (c.offFader + 2 ≤ c.offComm0 ∨ c.offComm0 + 20 ≤ c.offFader)
      ∧ (c.offControl + 2 ≤ c.offComm0 ∨ c.offComm0 + 20 ≤ c.offControl) ∧ c.dmBit < 16 := by
  simp only [Config.wf, Bool.and_eq_true, Bool.or_eq_true, decide_eq_true_eq] at h
  tauto

/-- A byte outside the two banks is one of `CONTROL`, one of FADER, or not the block's (R61, R70). -/
theorem target_beyond {c : Config} {a : Nat} (h : ¬ (c.offComm0 ≤ a ∧ a < c.offComm0 + 20)) :
    target c a = if a = c.offControl then .controlHigh else if a = c.offControl + 1 then .controlLow
      else if a = c.offFader ∨ a = c.offFader + 1 then .fader else .outside := by
  unfold target
  rw [dif_neg (by unfold offStat0; omega), dif_neg (by unfold offCmd0; omega)]

theorem target_controlHigh {c : Config} (h : c.wf = true) : target c c.offControl = .controlHigh := by
  obtain ⟨-, -, h3, -⟩ := Config.wf_window h
  rw [target_beyond (by omega), if_pos rfl]

theorem target_controlLow {c : Config} (h : c.wf = true) : target c (c.offControl + 1) = .controlLow := by
  obtain ⟨-, -, h3, -⟩ := Config.wf_window h
  rw [target_beyond (by omega), if_neg (by omega), if_pos rfl]

theorem target_fader {c : Config} (h : c.wf = true) {a : Nat} (ha : a = c.offFader ∨ a = c.offFader + 1) :
    target c a = .fader := by
  obtain ⟨h1, h2, -, -⟩ := Config.wf_window h
  rw [target_beyond (by omega), if_neg (by omega), if_neg (by omega), if_pos ha]

theorem target_outside {c : Config} {a : Nat} (h1 : a ≠ c.offControl) (h2 : a ≠ c.offControl + 1)
    (h3 : a ≠ c.offFader) (h4 : a ≠ c.offFader + 1) (h5 : ¬ (c.offComm0 ≤ a ∧ a < c.offComm0 + 20)) :
    target c a = .outside := by
  rw [target_beyond h5, if_neg h1, if_neg h2, if_neg (by omega)]

/-! ### The packet -/

/-- The status bank is valid once sealed (R153, R158). -/
@[simp] theorem validate_sealBank (p : Bank) : validate (sealBank p) = true := by simp [validate, sealBank, chk]

/-- What an executed packet leaves: a valid reply, and the move of a command or the checksum error response. -/
def ExecuteNext (s t : State) : Prop :=
  ∃ (st : Bank) (q : Playback) (n : Nat), t = { s with stat := st, play := q, draws := n }
    ∧ validate st = true ∧ (CommandMove s.cfg s.play q ∨ q = { s.play with status := .checksumError })

/-- Everything an executed packet can do (R155). -/
theorem execute_result (s : State) :
    (∃ t, execute s = .next t ∧ ExecuteNext s t)
    ∨ (s.play.sector < -150 ∧ execute s = .refused (.timeCodeBelowLeadIn s.play.sector)) := by
  unfold execute runPacket
  split
  · exact .inl ⟨_, rfl, _, _, _, rfl, validate_sealBank _, .inr rfl⟩
  · rename_i i _
    obtain ⟨t, e, st, q, n, rfl, -, hq⟩ | ⟨hs, e⟩ := exec_result i s
    · rw [e]; exact .inl ⟨_, rfl, _, q, n, rfl, validate_sealBank _, .inl hq⟩
    · rw [e]; exact .inr ⟨hs, rfl⟩

/-! ### Byte writes -/

/-- `t` differs from `s` by what a write that executes nothing may write: the command bank and `CONTROL` but for
`DM`. -/
def QuietNext (s t : State) : Prop :=
  ∃ (cm : Bank) (ct : Half), t = { s with cmd := cm, control := ct } ∧ ct.getLsbD s.cfg.dmBit = dm s

theorem quietNext_self (s : State) : QuietNext s s := ⟨s.cmd, s.control, rfl, rfl⟩

theorem QuietNext.trans {s t u : State} (h : QuietNext s t) (h' : QuietNext t u) : QuietNext s u := by
  obtain ⟨cm, ct, rfl, hd⟩ := h
  obtain ⟨cm', ct', rfl, hd'⟩ := h'
  exact ⟨cm', ct', rfl, hd'.trans hd⟩

/-- A byte write away from the trigger executes nothing (R66 to R69). -/
theorem writeByte_quiet {s : State} {a : Nat} (b : Byte) (h : a ≠ offTrigger s.cfg) :
    ∃ t, writeByte a b s = .next t ∧ QuietNext s t ∧ t.cmd = storeNibble s.cfg a b s.cmd := by
  unfold writeByte storeNibble
  cases hi : target s.cfg a with
  | stat _ | fader | outside => exact ⟨s, rfl, quietNext_self s, rfl⟩
  | cmd i =>
    have : i ≠ 9 := fun hi9 => h (target_eq_trigger (hi9 ▸ hi))
    simp only [writeCmd, this, if_false]
    exact ⟨_, rfl, ⟨_, s.control, rfl, rfl⟩, rfl⟩
  | controlHigh | controlLow => exact ⟨_, rfl, ⟨s.cmd, _, rfl, dm_writeControl _ s⟩, rfl⟩

/-- The byte write to the trigger stores the nibble and executes (R66, R154). -/
theorem writeByte_trigger (s : State) (b : Byte) :
    writeByte (offTrigger s.cfg) b s = execute { s with cmd := { s.cmd with n9 := nibbleOfByte b } } := by
  have h : target s.cfg (offTrigger s.cfg) = .cmd 9 := target_cmd s.cfg 9
  rw [writeByte, h]
  rfl

/-- The trigger byte's nibble is `CMD[9]`. -/
theorem storeNibble_trigger (c : Config) (b : Byte) (p : Bank) :
    storeNibble c (offTrigger c) b p = { p with n9 := nibbleOfByte b } := by
  have h : target c (offTrigger c) = .cmd 9 := target_cmd c 9
  rw [storeNibble, h]
  rfl

/-- What byte writes `l` to distinct offsets leave: nothing executed, or the one packet buffered at the trigger. -/
inductive BusNext (s : State) (l : List (Nat × Byte)) : State → Prop where
  | quiet {t : State} (hl : offTrigger s.cfg ∉ l.map Prod.fst) (h : QuietNext s t) : BusNext s l t
  | executed {u v t : State} (hl : offTrigger s.cfg ∈ l.map Prod.fst) (h : QuietNext s u)
      (hc : u.cmd = packetAt s.cfg l s.cmd) (he : execute u = .next v) (h' : QuietNext v t) : BusNext s l t

/-- What byte writes can answer: a refusal is that of the packet buffered at the trigger. -/
def BusResult (s : State) (l : List (Nat × Byte)) (r : Result) : Prop :=
  (∃ t, r = .next t ∧ BusNext s l t)
  ∨ (offTrigger s.cfg ∈ l.map Prod.fst ∧ ∃ u e, QuietNext s u ∧ u.cmd = packetAt s.cfg l s.cmd
      ∧ execute u = .refused e ∧ r = .refused e)

theorem writeBytes_quiet {l : List (Nat × Byte)} {s : State} (h : offTrigger s.cfg ∉ l.map Prod.fst) :
    ∃ t, writeBytes l s = .next t ∧ QuietNext s t := by
  induction l generalizing s with
  | nil => exact ⟨s, rfl, quietNext_self s⟩
  | cons x l ih =>
    simp only [List.map_cons, List.mem_cons, not_or] at h
    obtain ⟨t, e, ht, -⟩ := writeByte_quiet x.2 (Ne.symm h.1)
    have hc : t.cfg = s.cfg := by obtain ⟨_, _, rfl, -⟩ := ht; rfl
    obtain ⟨u, e', hu⟩ := ih (s := t) (by rw [hc]; exact h.2)
    exact ⟨u, by simp [writeBytes, andThen, e, e'], ht.trans hu⟩

theorem writeBytes_result {l : List (Nat × Byte)} (s : State) (h : (l.map Prod.fst).Nodup) :
    BusResult s l (writeBytes l s) := by
  induction l generalizing s with
  | nil => exact .inl ⟨s, rfl, .quiet (by simp) (quietNext_self s)⟩
  | cons x l ih =>
    obtain ⟨hx, hl⟩ := List.nodup_cons.mp h
    by_cases ha : x.1 = offTrigger s.cfg
    · have hm : offTrigger s.cfg ∈ (x :: l).map Prod.fst := by simp [ha]
      have hq : QuietNext s { s with cmd := { s.cmd with n9 := nibbleOfByte x.2 } } := ⟨_, s.control, rfl, rfl⟩
      have hp : { s.cmd with n9 := nibbleOfByte x.2 } = packetAt s.cfg (x :: l) s.cmd := by
        rw [packetAt, if_pos ha, ha, storeNibble_trigger]
      simp only [writeBytes, ha, writeByte_trigger]
      obtain ⟨v, e, hv⟩ | ⟨-, e⟩ := execute_result { s with cmd := { s.cmd with n9 := nibbleOfByte x.2 } }
      · have hc : v.cfg = s.cfg := by obtain ⟨_, _, _, rfl, -⟩ := hv; rfl
        obtain ⟨t, e', ht⟩ := writeBytes_quiet (l := l) (s := v) (by rw [hc, ← ha]; exact hx)
        refine .inl ⟨t, by rw [e, andThen, e'], .executed hm hq hp e ht⟩
      · exact .inr ⟨hm, _, _, hq, hp, e, by rw [e, andThen]⟩
    · obtain ⟨t, e, ⟨cm, ct, rfl, hd⟩, hcm⟩ := writeByte_quiet x.2 ha
      simp only at hcm
      subst hcm
      have hq : QuietNext s { s with cmd := storeNibble s.cfg x.1 x.2 s.cmd, control := ct } := ⟨_, ct, rfl, hd⟩
      have hm : offTrigger s.cfg ∈ (x :: l).map Prod.fst ↔ offTrigger s.cfg ∈ l.map Prod.fst := by
        simp [Ne.symm ha]
      have hp : packetAt s.cfg (x :: l) s.cmd = packetAt s.cfg l (storeNibble s.cfg x.1 x.2 s.cmd) := by
        rw [packetAt, if_neg ha]
      simp only [writeBytes, e, andThen]
      obtain ⟨u, e', hu⟩ | ⟨hl', u, r, hu, hc, he, e'⟩ :=
        ih { s with cmd := storeNibble s.cfg x.1 x.2 s.cmd, control := ct } hl
      · refine .inl ⟨u, e', ?_⟩
        cases hu with
        | quiet hn h' => exact .quiet (fun hx => hn (hm.mp hx)) (hq.trans h')
        | executed hn h' hc he h'' => exact .executed (hm.mpr hn) (hq.trans h') (hc.trans hp.symm) he h''
      · exact .inr ⟨hm.mpr hl', u, r, hq.trans hu, hc.trans hp.symm, he, e'⟩

/-- A bus write covers the trigger when one of its byte writes is the trigger write (R64). -/
theorem mem_busBytes_trigger (c : Config) (off : Nat) (n : Size) (v : Long) :
    offTrigger c ∈ (busBytes off n v).map Prod.fst ↔ coversTrigger c off n = true := by
  simp only [busBytes, List.map_map, List.mem_map, List.mem_range, Function.comp, coversTrigger, Bool.and_eq_true,
    decide_eq_true_eq]
  constructor
  · rintro ⟨k, hk, h⟩
    omega
  · rintro ⟨h1, h2⟩
    exact ⟨offTrigger c - off, by omega, by omega⟩

/-- Everything a bus write can do (R64, R65). -/
theorem busWrite_result (off : Nat) (n : Size) (v : Long) (s : State) :
    (misaligned off n = true ∧ busWrite off n v s = .refused (.misalignedAccess off))
    ∨ (misaligned off n = false ∧ BusResult s (busBytes off n v) (busWrite off n v s)) := by
  unfold busWrite
  by_cases h : misaligned off n = true
  · simp [h]
  · rw [Bool.not_eq_true] at h
    simp only [h, Bool.false_eq_true, if_false]
    refine .inr ⟨trivial, writeBytes_result s ?_⟩
    simp only [busBytes, List.map_map]
    exact List.Nodup.map (fun a b hab => by simpa using hab) List.nodup_range

/-- A byte write to the trigger is one execution of the packet then buffered (R154). -/
theorem step_trigger {s : State} {v : Long} {rest : List Event}
    (h : s.inputs = .busWrite (offTrigger s.cfg) .byte v :: rest) :
    step s = execute { s with inputs := rest, outputs := [], cmd := { s.cmd with n9 := v.extractLsb' 0 4 } } := by
  have e : nibbleOfByte (v.extractLsb' 0 8) = v.extractLsb' 0 4 := by
    ext i hi
    simp [nibbleOfByte, show i < 8 by omega]
  have e' : busBytes (offTrigger s.cfg) .byte v = [(offTrigger s.cfg, v.extractLsb' 0 8)] := rfl
  have hw : writeByte (offTrigger s.cfg) (v.extractLsb' 0 8) (takeEvent rest s) = _ :=
    writeByte_trigger (takeEvent rest s) (v.extractLsb' 0 8)
  have ha (r : Result) : andThen r .next = r := by cases r <;> rfl
  rw [step, stepOnce, h]
  simp only [runEvent, busWrite, misaligned, bne_self_eq_false, Bool.false_and, Bool.false_eq_true, if_false, e']
  rw [writeBytes, hw, e]
  exact ha _

end Sys2Proof.Machine
end

