-- ==== Sys2Proof/Laws/Codes.lean ====
section
/-!
SUPPORT. The code maps of the packets: with good parameters a code looks up to the command, or sub-command, it is the
code of and to no other, and exactly three command codes and nine sub-command codes are left (30_encoding.md R96, R99).
-/
namespace Sys2Proof

theorem mem_allNibs (n : Nib) : n ∈ allNibs := by revert n; decide

/-- A table whose entries are the codes of a list without repeats, as `Config.wf` asks, is injective. -/
theorem vector_getElem_inj {k : Nat} {v : Vector Nib k} (h : v.toList.Nodup) {i j : Fin k} (e : v[i] = v[j]) :
    i = j := by
  have hi : (i : Nat) < v.toList.length := by simp
  have hj : (j : Nat) < v.toList.length := by simp
  refine Fin.ext ((List.Nodup.getElem_inj_iff h (hi := hi) (hj := hj)).mp ?_)
  simpa using e

theorem Command.index_inj {x y : Command} (h : x.index = y.index) : x = y := by
  cases x <;> cases y <;> first | rfl | exact absurd h (by decide)
theorem SubCommand.index_inj {x y : SubCommand} (h : x.index = y.index) : x = y := by
  cases x <;> cases y <;> first | rfl | exact absurd h (by decide)
theorem Command.mem_all (x : Command) : x ∈ Command.all := by cases x <;> decide
theorem SubCommand.mem_all (x : SubCommand) : x ∈ SubCommand.all := by cases x <;> decide

/-- What the code maps need of good parameters (R96, R99, R102). -/
theorem Config.wf_codes {c : Config} (h : c.wf = true) :
    c.cmdCodes.toList.Nodup ∧ c.reqCodes.toList.Nodup ∧ (0xF : Nib) ∉ c.reqCodes.toList := by
  simp only [Config.wf, Bool.and_eq_true, decide_eq_true_eq, List.nodup_cons] at h
  tauto

/-! ### Commands (R96) -/

/-- `CMD_CODE` is injective (R96). -/
theorem Config.cmdCode_inj {c : Config} (h : c.wf = true) {x y : Command} (e : c.cmdCode x = c.cmdCode y) : x = y :=
  Command.index_inj (vector_getElem_inj (c.wf_codes h).1 e)

/-- A command's code looks up to the command. -/
theorem Config.commandOf_cmdCode {c : Config} (h : c.wf = true) (x : Command) : c.commandOf (c.cmdCode x) = some x := by
  obtain ⟨y, hy⟩ : ∃ y, c.commandOf (c.cmdCode x) = some y :=
    Option.isSome_iff_exists.mp (List.find?_isSome.mpr ⟨x, x.mem_all, by simp⟩)
  rw [hy, c.cmdCode_inj h (x := y) (y := x) (by simpa using List.find?_some hy)]

/-- What a code looks up to has that code. -/
theorem Config.cmdCode_commandOf {c : Config} {n : Nib} {x : Command} (h : c.commandOf n = some x) : c.cmdCode x = n := by
  simpa using List.find?_some h

/-- The unassigned command codes are those that look up to nothing, each once. -/
theorem Config.mem_freeCmdCodes (c : Config) (n : Nib) : n ∈ c.freeCmdCodes ↔ c.commandOf n = none := by
  simp [Config.freeCmdCodes, mem_allNibs]

theorem Config.nodup_freeCmdCodes (c : Config) : c.freeCmdCodes.Nodup := List.Nodup.filter _ (by decide)

/-- Three command codes are unassigned (R96). -/
theorem Config.length_freeCmdCodes {c : Config} (h : c.wf = true) : c.freeCmdCodes.length = 3 := by
  have hp : (allNibs.filter (fun n => (c.commandOf n).isSome)).Perm (Command.all.map c.cmdCode) := by
    rw [List.perm_ext_iff_of_nodup (List.Nodup.filter _ (by decide))
      (List.Nodup.map (fun _ _ => c.cmdCode_inj h) (by decide))]
    intro n
    simp only [List.mem_filter, mem_allNibs, true_and, Option.isSome_iff_exists, List.mem_map]
    exact ⟨fun ⟨x, hx⟩ => ⟨x, x.mem_all, Config.cmdCode_commandOf hx⟩,
      fun ⟨x, _, hx⟩ => ⟨x, hx ▸ c.commandOf_cmdCode h x⟩⟩
  have hs := List.length_eq_length_filter_add (l := allNibs) (fun n => (c.commandOf n).isSome)
  simp only [hp.length_eq, Option.not_isSome] at hs
  simp only [allNibs, Command.all, List.length_cons, List.length_map, List.length_nil] at hs
  unfold Config.freeCmdCodes allNibs
  omega

/-! ### Sub-commands (R99) -/

/-- `REQ_CODE` is injective (R99). -/
theorem Config.reqCode_inj {c : Config} (h : c.wf = true) {x y : SubCommand} (e : c.reqCode x = c.reqCode y) : x = y :=
  SubCommand.index_inj (vector_getElem_inj (c.wf_codes h).2.1 e)

/-- No report has the selector that a seek leaves (R102). -/
theorem Config.reqCode_ne_selInvalid {c : Config} (h : c.wf = true) (x : SubCommand) : c.reqCode x ≠ selInvalid := by
  intro e
  refine (c.wf_codes h).2.2 ?_
  rw [show (0xF : Nib) = c.reqCode x from e.symm]
  simp [Config.reqCode]

/-- A sub-command's code looks up to the sub-command. -/
theorem Config.subCommandOf_reqCode {c : Config} (h : c.wf = true) (x : SubCommand) :
    c.subCommandOf (c.reqCode x) = some x := by
  obtain ⟨y, hy⟩ : ∃ y, c.subCommandOf (c.reqCode x) = some y :=
    Option.isSome_iff_exists.mp (List.find?_isSome.mpr ⟨x, x.mem_all, by simp⟩)
  rw [hy, c.reqCode_inj h (x := y) (y := x) (by simpa using List.find?_some hy)]

/-- What a sub-code looks up to has that code. -/
theorem Config.reqCode_subCommandOf {c : Config} {n : Nib} {x : SubCommand} (h : c.subCommandOf n = some x) :
    c.reqCode x = n := by
  simpa using List.find?_some h

/-- The unassigned sub-command codes are those that look up to nothing, each once. -/
theorem Config.mem_freeReqCodes (c : Config) (n : Nib) : n ∈ c.freeReqCodes ↔ c.subCommandOf n = none := by
  simp [Config.freeReqCodes, mem_allNibs]

theorem Config.nodup_freeReqCodes (c : Config) : c.freeReqCodes.Nodup := List.Nodup.filter _ (by decide)

/-- Nine sub-command codes are unassigned (R99). -/
theorem Config.length_freeReqCodes {c : Config} (h : c.wf = true) : c.freeReqCodes.length = 9 := by
  have hp : (allNibs.filter (fun n => (c.subCommandOf n).isSome)).Perm (SubCommand.all.map c.reqCode) := by
    rw [List.perm_ext_iff_of_nodup (List.Nodup.filter _ (by decide))
      (List.Nodup.map (fun _ _ => c.reqCode_inj h) (by decide))]
    intro n
    simp only [List.mem_filter, mem_allNibs, true_and, Option.isSome_iff_exists, List.mem_map]
    exact ⟨fun ⟨x, hx⟩ => ⟨x, x.mem_all, Config.reqCode_subCommandOf hx⟩,
      fun ⟨x, _, hx⟩ => ⟨x, hx ▸ c.subCommandOf_reqCode h x⟩⟩
  have hs := List.length_eq_length_filter_add (l := allNibs) (fun n => (c.subCommandOf n).isSome)
  simp only [hp.length_eq, Option.not_isSome] at hs
  simp only [allNibs, SubCommand.all, List.length_cons, List.length_map, List.length_nil] at hs
  unfold Config.freeReqCodes allNibs
  omega

end Sys2Proof
end

