-- ==== Sys2Proof/Laws/Memory.lean ====
section
/-!
SUPPORT. Sparse bytes: every operation keeps the canonical form, a read after a write gives the byte written and leaves
every other offset alone, and canonical memories that read alike are equal.
-/
namespace Sys2Proof.Machine

theorem Memory.wfFrom_mono {m : Memory} {lo lo' : Nat} (h : lo' ≤ lo) (w : Memory.wfFrom lo m = true) :
    Memory.wfFrom lo' m = true := by
  cases m with
  | nil => rfl
  | cons c rest =>
    simp only [Memory.wfFrom, Bool.and_eq_true, decide_eq_true_eq] at w ⊢
    exact ⟨⟨by omega, w.1.2⟩, w.2⟩

/-- A write at or above the lower bound keeps the canonical form. -/
theorem Memory.write_wfFrom (b : Byte) : ∀ (m : Memory) (lo a : Nat), lo ≤ a → Memory.wfFrom lo m = true →
    Memory.wfFrom lo (m.write a b) = true
  | [], lo, a, h, _ => by
    by_cases hb : b = 0#8 <;> simp [Memory.write, Memory.wfFrom, hb, h]
  | (k, c) :: rest, lo, a, h, w => by
    simp only [Memory.wfFrom, Bool.and_eq_true, decide_eq_true_eq] at w
    obtain ⟨⟨hk, hc⟩, hr⟩ := w
    by_cases hb : b = 0#8 <;> by_cases h1 : a < k <;> by_cases h2 : a = k <;>
      simp only [Memory.write, h1, h2, hb, if_true, if_false, Memory.wfFrom, Bool.and_eq_true, decide_eq_true_eq]
    · omega
    · exact ⟨⟨hk, hc⟩, hr⟩
    · simpa using Memory.wfFrom_mono (by omega) hr
    · exact ⟨⟨hk, hc⟩, by simpa [hb] using Memory.write_wfFrom b rest (k + 1) a (by omega) hr⟩
    · omega
    · exact ⟨⟨h, by simpa using hb⟩, ⟨by omega, hc⟩, hr⟩
    · simp only [Nat.lt_irrefl, if_false, Memory.wfFrom, Bool.and_eq_true, decide_eq_true_eq]
      exact ⟨⟨hk, by simpa using hb⟩, hr⟩
    · exact ⟨⟨hk, hc⟩, Memory.write_wfFrom b rest (k + 1) a (by omega) hr⟩

/-- A write keeps the canonical form. -/
theorem Memory.write_wf {m : Memory} (a : Nat) (b : Byte) (w : m.wf = true) : (m.write a b).wf = true :=
  Memory.write_wfFrom b m 0 a (Nat.zero_le a) w

/-- Below the first listed offset every byte reads as 0. -/
theorem Memory.read_below : ∀ (m : Memory) (lo a : Nat), a < lo → Memory.wfFrom lo m = true → m.read a = 0#8
  | [], _, _, _, _ => rfl
  | (k, c) :: rest, lo, a, h, w => by
    simp only [Memory.wfFrom, Bool.and_eq_true, decide_eq_true_eq] at w
    have hk : k ≠ a := by omega
    simpa [Memory.read, hk] using Memory.read_below rest (k + 1) a (by omega) w.2

theorem Memory.read_write_same (b : Byte) : ∀ (m : Memory) (lo a : Nat), Memory.wfFrom lo m = true →
    (m.write a b).read a = b
  | [], _, a, _ => by
    by_cases hb : b = 0#8 <;> simp [Memory.write, Memory.read, hb]
  | (k, c) :: rest, lo, a, w => by
    simp only [Memory.wfFrom, Bool.and_eq_true, decide_eq_true_eq] at w
    by_cases h1 : a < k
    · have hk : k ≠ a := by omega
      have hz : Memory.read rest a = 0#8 := Memory.read_below rest (k + 1) a (by omega) w.2
      by_cases hb : b = 0#8 <;> simp [Memory.write, h1, hb, Memory.read, hk, hz]
    · by_cases h2 : a = k
      · have hz : Memory.read rest a = 0#8 := Memory.read_below rest (k + 1) a (by omega) w.2
        by_cases hb : b = 0#8
        · subst h2; simp [Memory.write, hb, hz]
        · subst h2; simp [Memory.write, hb, Memory.read]
      · have hk : k ≠ a := fun e => h2 e.symm
        simpa [Memory.write, h1, h2, Memory.read, hk] using Memory.read_write_same b rest (k + 1) a w.2

theorem Memory.read_write_other (b : Byte) {a x : Nat} (hx : x ≠ a) : ∀ m : Memory,
    (m.write a b).read x = m.read x
  | [] => by
    by_cases hb : b = 0#8 <;> simp [Memory.write, Memory.read, hb, hx.symm]
  | (k, c) :: rest => by
    by_cases h1 : a < k
    · by_cases hb : b = 0#8 <;> simp [Memory.write, h1, hb, Memory.read, hx.symm]
    · by_cases h2 : a = k
      · subst h2
        by_cases hb : b = 0#8 <;> simp [Memory.write, hb, Memory.read, hx.symm]
      · simp only [Memory.write, h1, h2, if_false, Memory.read]
        rw [Memory.read_write_other b hx rest]

/-- The bytes of an inserted track are in canonical form. -/
theorem Memory.ofCells_wf (len : Nat) : ∀ cells : List Host.Cell, (Memory.ofCells len cells).wf = true
  | [] => rfl
  | (a, b) :: rest => by
    by_cases h : a < len <;> simp only [Memory.ofCells, h, if_true, if_false]
    · exact Memory.write_wf a b (Memory.ofCells_wf len rest)
    · exact Memory.ofCells_wf len rest

/-- What an inserted track reads as: below its length the first cell named for the offset, 0 where none is. -/
theorem Memory.read_ofCells (len x : Nat) (cells : List Host.Cell) :
    Memory.read (Memory.ofCells len cells) x
      = if x < len then ((cells.find? (fun c => c.1 == x)).map (·.2)).getD 0 else 0 := by
  induction cells with
  | nil => simp [Memory.ofCells, Memory.read]
  | cons c rest ih =>
    obtain ⟨a, b⟩ := c
    by_cases hx : a = x
    · subst hx
      by_cases h : a < len
      · simp [Memory.ofCells, h, Memory.read_write_same b _ 0 a (Memory.ofCells_wf len rest)]
      · simpa [Memory.ofCells, h] using ih
    · by_cases h : a < len <;>
        simp [Memory.ofCells, h, Memory.read_write_other b (Ne.symm hx), ih, hx]

/-- Canonical memories that read alike at every offset are the same data. -/
theorem Memory.eq_of_read : ∀ (m n : Memory) (lo : Nat), Memory.wfFrom lo m = true → Memory.wfFrom lo n = true →
    (∀ a, m.read a = n.read a) → m = n
  | [], [], _, _, _, _ => rfl
  | [], (k, c) :: r, lo, _, wn, h => by
    simp only [Memory.wfFrom, Bool.and_eq_true, bne_iff_ne] at wn
    exact absurd (by simpa [Memory.read] using (h k).symm) wn.1.2
  | (k, c) :: r, [], lo, wm, _, h => by
    simp only [Memory.wfFrom, Bool.and_eq_true, bne_iff_ne] at wm
    exact absurd (by simpa [Memory.read] using h k) wm.1.2
  | (k, c) :: r, (k', c') :: r', lo, wm, wn, h => by
    simp only [Memory.wfFrom, Bool.and_eq_true, decide_eq_true_eq, bne_iff_ne] at wm wn
    have hk : k = k' := by
      rcases Nat.lt_trichotomy k k' with hlt | heq | hgt
      · have := h k
        rw [Memory.read, if_pos rfl, Memory.read, if_neg (by omega),
          Memory.read_below r' (k' + 1) k (by omega) wn.2] at this
        exact absurd this wm.1.2
      · exact heq
      · have := h k'
        rw [Memory.read, if_neg (by omega), Memory.read_below r (k + 1) k' (by omega) wm.2,
          Memory.read, if_pos rfl] at this
        exact absurd this.symm wn.1.2
    subst hk
    have hc : c = c' := by simpa [Memory.read] using h k
    subst hc
    have ht : r = r' := Memory.eq_of_read r r' (k + 1) wm.2 wn.2 fun a => by
      by_cases ha : k = a
      · subst ha
        rw [Memory.read_below r (k + 1) k (by omega) wm.2, Memory.read_below r' (k + 1) k (by omega) wn.2]
      · simpa [Memory.read, ha] using h a
    rw [ht]

end Sys2Proof.Machine
end

