-- ==== Sys2Proof/Laws/Disc.lean ====
section
/-!
SUPPORT. The Track Table: what insertion builds (40_resolver.md R132, R133) and what a good table gives its readers
(10_state.md R41, R43).
-/
namespace Sys2Proof.Machine

/-! ### Building the table (R132) -/

theorem buildTable_length (n start : Nat) (ts : List TrackSource) : (buildTable n start ts).length = ts.length := by
  induction ts generalizing n start with
  | nil => rfl
  | cons t ts ih => simp [buildTable, ih]

theorem buildTable_map_type (n start : Nat) (ts : List TrackSource) :
    (buildTable n start ts).map (·.type) = ts.map (·.type) := by
  induction ts generalizing n start with
  | nil => rfl
  | cons t ts ih => simp [buildTable, ih, entryOf]

theorem buildTable_map_lenBytes (n start : Nat) (ts : List TrackSource) :
    (buildTable n start ts).map (·.lenBytes) = ts.map (·.lenBytes) := by
  induction ts generalizing n start with
  | nil => rfl
  | cons t ts ih => simp [buildTable, ih, entryOf]

/-- The table built has the invariants of R43, where `track` can hold every number in it (R11). -/
theorem tableFrom_buildTable (n start : Nat) (ts : List TrackSource) :
    n + ts.length ≤ 256 → tableFrom n start (buildTable n start ts) = true := by
  induction ts generalizing n start with
  | nil => exact fun _ => rfl
  | cons t ts ih =>
    intro h
    simp only [List.length_cons] at h
    have hn : n % 256 = n := Nat.mod_eq_of_lt (by omega)
    simp [buildTable, tableFrom, ih (n + 1) _ (by omega), entryOf, Memory.ofCells_wf, hn]

/-- The disc ends where its tracks' sectors end. -/
theorem lastEnd_buildTable (n start : Nat) {ts : List TrackSource} (h : ts ≠ []) :
    lastEnd (buildTable n start ts) = start + (ts.map (fun t => t.lenBytes / 2352)).sum := by
  induction ts generalizing n start with
  | nil => exact absurd rfl h
  | cons t ts ih =>
    cases ts with
    | nil => simp [buildTable, lastEnd, entryOf, sectorSize]
    | cons u us =>
      have := ih (n + 1) (entryOf n start t).endSector (by simp)
      simp only [lastEnd, buildTable, List.getLast?_cons_cons] at this ⊢
      rw [this]
      simp [entryOf, sectorSize]
      omega

theorem entryWhole_entryOf (n start : Nat) (t : TrackSource) : entryWhole (entryOf n start t) = wholeSectors t := rfl

theorem all_entryWhole_buildTable (n start : Nat) (ts : List TrackSource) :
    (buildTable n start ts).all entryWhole = ts.all wholeSectors := by
  induction ts generalizing n start with
  | nil => rfl
  | cons t ts ih => simp only [buildTable, List.all_cons, ih, entryWhole_entryOf]

theorem dropLast_buildTable (n start : Nat) (ts : List TrackSource) :
    (buildTable n start ts).dropLast = buildTable n start ts.dropLast := by
  induction ts generalizing n start with
  | nil => rfl
  | cons t ts ih =>
    cases ts with
    | nil => rfl
    | cons u us =>
      have := ih (n + 1) (entryOf n start t).endSector
      simp only [buildTable, List.dropLast_cons_cons] at this ⊢
      rw [this]

/-- An acceptable image has at least one track, and none whose number `track` cannot hold (R11, R43 (f)). -/
theorem acceptable_countable {kind : DiscKind} {ts : List TrackSource} (h : acceptable kind ts = true) :
    1 ≤ ts.length ∧ ts.length < 256 := by
  cases kind with
  | unknown => cases h
  | iso | binCue =>
    simp only [acceptable, countable, Bool.and_eq_true, decide_eq_true_eq] at h
    exact h.1

/-- An acceptable image keeps the length rules of its kind (R43 (g), R133). -/
theorem sizesOk_buildTable {kind : DiscKind} {ts : List TrackSource} (h : acceptable kind ts = true) (n start : Nat) :
    sizesOk kind (buildTable n start ts) = true := by
  cases kind with
  | iso =>
    simp only [acceptable, Bool.and_eq_true] at h
    simp only [sizesOk, dropLast_buildTable, all_entryWhole_buildTable, h.2]
  | unknown => cases h
  | binCue =>
    simp only [acceptable, Bool.and_eq_true] at h
    have h2 := h.2
    clear h
    simp only [sizesOk]
    induction ts generalizing n start with
    | nil => rfl
    | cons t ts ih =>
      simp only [List.all_cons, Bool.and_eq_true] at h2
      simp only [buildTable, List.all_cons, ih _ _ h2.2, entryWhole_entryOf, h2.1.1, Bool.and_true, Bool.true_and]
      have := h2.1.2
      simp only [longEnough, decide_eq_true_eq] at this
      simp [entryOf, this]

/-- An accepted image gives a good disc (R41, R43). -/
theorem loadDisc_ok {kind : DiscKind} {ts : List TrackSource} (h : acceptable kind ts = true) :
    (loadDisc kind ts).ok = true := by
  obtain ⟨h1, h2⟩ := acceptable_countable h
  simp [Disc.ok, loadDisc, buildTable_length, tableFrom_buildTable 1 0 ts (by omega), sizesOk_buildTable h, h1]

/-! ### Reading a good table (R43) -/

/-- Entry `k` of a table numbered from `n` has number `n + k` and an end that its bytes give. -/
theorem tableFrom_getElem? {n start k : Nat} {l : List TrackEntry} {e : TrackEntry} (h : tableFrom n start l = true)
    (he : l[k]? = some e) :
    e.number.val = n + k ∧ e.sectorSize = sectorSize ∧ e.endSector = e.startSector + e.lenBytes / sectorSize
      ∧ e.data.wf = true ∧ start ≤ e.startSector := by
  induction l generalizing n start k with
  | nil => cases he
  | cons x l ih =>
    simp only [tableFrom, Bool.and_eq_true, beq_iff_eq] at h
    obtain ⟨⟨⟨⟨⟨h1, h2⟩, h3⟩, h4⟩, h5⟩, h6⟩ := h
    cases k with
    | zero =>
      cases he
      exact ⟨h1, h2, by rw [h4, h3, h2], h5, h3.ge⟩
    | succ k =>
      obtain ⟨a, b, c, d, f⟩ := ih h6 he
      refine ⟨by omega, b, c, d, ?_⟩
      have : start ≤ x.endSector := by rw [h4]; exact Nat.le_add_right _ _
      omega

/-- The parts of a good disc that is present. -/
theorem Disc.ok_present {d : Disc} (h : d.ok = true) (hp : d.present = true) :
    d.numTracks = d.table.length ∧ 1 ≤ d.numTracks ∧ tableFrom 1 0 d.table = true ∧ d.totalEnd = lastEnd d.table
      ∧ sizesOk d.kind d.table = true := by
  simp only [Disc.ok, hp, if_true, Bool.and_eq_true, beq_iff_eq, decide_eq_true_eq] at h
  obtain ⟨⟨⟨⟨a, b⟩, c⟩, d⟩, e⟩ := h
  exact ⟨a, b, c, d, e⟩

/-- Without a disc the disc state is empty (R41). -/
theorem Disc.ok_absent {d : Disc} (h : d.ok = true) (hp : d.present = false) : d = Disc.none := by
  simpa [Disc.ok, hp] using h

/-- What a lookup finds is a track of the disc (R43 (a), R126). -/
theorem trackForSector_number {s : State} {n : Int} {e : TrackEntry} (h : s.disc.ok = true)
    (he : trackForSector s n = some e) : 1 ≤ e.number.val ∧ e.number.val ≤ s.disc.numTracks := by
  unfold trackForSector at he
  split at he
  · cases he
  have hm := List.mem_of_find?_eq_some he
  cases hp : s.disc.present with
  | false => rw [Disc.ok_absent h hp] at hm; cases hm
  | true =>
    obtain ⟨h1, -, h3, -, -⟩ := Disc.ok_present h hp
    obtain ⟨k, hk, rfl⟩ := List.mem_iff_getElem.mp hm
    have := (tableFrom_getElem? h3 (List.getElem?_eq_getElem hk)).1
    omega

/-! ### Past the end of the disc (R126) -/

/-- The tracks of a good table end at most where the table ends. -/
theorem tableFrom_mem {n start : Nat} {l : List TrackEntry} (h : tableFrom n start l = true) :
    ∀ e ∈ l, e.startSector ≤ e.endSector ∧ e.endSector ≤ lastEnd l := by
  induction l generalizing n start with
  | nil => simp
  | cons x l ih =>
    simp only [tableFrom, Bool.and_eq_true, beq_iff_eq] at h
    obtain ⟨⟨⟨⟨⟨-, -⟩, h3⟩, h4⟩, -⟩, h6⟩ := h
    have hx : x.startSector ≤ x.endSector := by rw [h4, h3]; exact Nat.le_add_right _ _
    intro e he
    cases l with
    | nil =>
      obtain rfl := List.mem_singleton.mp he
      exact ⟨hx, by simp [lastEnd]⟩
    | cons y l =>
      have hl : lastEnd (x :: y :: l) = lastEnd (y :: l) := by simp [lastEnd]
      rw [hl]
      obtain rfl | he := List.mem_cons.mp he
      · have := ih h6 y (by simp)
        simp only [tableFrom, Bool.and_eq_true, beq_iff_eq] at h6
        exact ⟨hx, by omega⟩
      · exact ih h6 e he

theorem pastEnd_mono {c : Config} {d : Disc} {n m : Int} (h : pastEnd c d n = true) (hm : n ≤ m) :
    pastEnd c d m = true := by
  simp only [pastEnd, Bool.and_eq_true, decide_eq_true_eq] at h ⊢
  cases hi : c.trackEndInclusive <;> simp [hi] at h ⊢ <;> omega

/-- Past the end of the disc no later sector is on a track. -/
theorem trackForSector_pastEnd {s : State} {n m : Int} (hd : s.disc.ok = true)
    (h : pastEnd s.cfg s.disc n = true) (hm : n < m) : trackForSector s m = none := by
  unfold trackForSector
  split
  · rfl
  rw [List.find?_eq_none]
  intro e he
  cases hp : s.disc.present with
  | false => rw [Disc.ok_absent hd hp] at he; cases he
  | true =>
    obtain ⟨-, -, h3, h4, -⟩ := Disc.ok_present hd hp
    have := tableFrom_mem h3 e he
    simp only [pastEnd, h4, Bool.and_eq_true, decide_eq_true_eq] at h
    simp only [TrackEntry.holds, Bool.and_eq_true, decide_eq_true_eq, not_and]
    cases hi : s.cfg.trackEndInclusive <;> simp [hi] at h ⊢ <;> omega

end Sys2Proof.Machine
end

