-- ==== Sys2Proof/Laws/Events.lean ====
section
/-!
SUPPORT. What a step is by its event (00_scope.md R3), and what a bus write and an insertion can leave.
-/
namespace Sys2Proof.Machine

/-- A step runs the event that waits first. -/
theorem step_event {s : State} {e : Event} {rest : List Event} (h : s.inputs = e :: rest) :
    step s = runEvent e (takeEvent rest s) := by
  rw [step, stepOnce, h]

/-- With no event waiting a step only drops the signals of the step before. -/
theorem step_idle {s : State} (h : s.inputs = []) : step s = .next (takeEvent [] s) := by
  rw [step, stepOnce, h]

/-- A run takes its first step, then runs on from there. -/
theorem core_run_next {s t : State} (h : step s = .next t) (k : Nat) : core.run (k + 1) s = core.run k t := by
  have e (M : Host.Core) (k : Nat) (s t : M.State) (h : M.step s = .next t) : M.run (k + 1) s = M.run k t := by
    rw [Host.Core.run, h]
  exact e core k s t h

/-- A run that completes runs one step on. -/
theorem core_run_succ {s t u : State} {k : Nat} (h : core.run k s = .next t) (h' : step t = .next u) :
    core.run (k + 1) s = .next u := by
  have e (M : Host.Core) (u : M.State) (k : Nat) : ∀ s t : M.State, M.run k s = .next t → M.step t = .next u →
      M.run (k + 1) s = .next u := by
    induction k with
    | zero =>
      intro s t h h'
      cases h
      simp only [Host.Core.run, h']
    | succ k ih =>
      intro s t h h'
      rw [Host.Core.run] at h
      cases hs : M.step s with
      | next v => rw [hs] at h; rw [Host.Core.run, hs]; exact ih v t h h'
      | fault r => rw [hs] at h; cases h
      | refused r => rw [hs] at h; cases h
  exact e core u k s t h h'

/-- A step that takes an enabled Polling Tick (R260, R261). -/
theorem step_pollTick {s : State} {q : List Event} (hi : s.inputs = .pollTick :: q) (hp : s.disc.present = true)
    (hh : s.control.getLsbD 2 = true) :
    step s = .next (pollArm { s with inputs := q, outputs := pollOutputs s }) := by
  rw [step_event hi]
  simp only [runEvent]
  rw [pollTick_enabled (by simp [ticking, takeEvent, hock, hp, hh])]
  rfl

/-- What an enabled tick emits in every status but Playing (R260, R320, R321). -/
theorem pollOutputs_reading {s : State} (hh : s.control.getLsbD 2 = true) (hs : s.play.status ≠ .playing) :
    pollOutputs s = [.cdcSector 0, .irq] := by
  have hh' : hock s = true := hh
  simp [pollOutputs, cdcSectorOf, hh', hs]

/-- A bus write that completes did what byte writes can do. -/
theorem busWrite_next {off : Nat} {n : Size} {v : Long} {s t : State} (h : busWrite off n v s = .next t) :
    misaligned off n = false ∧ BusNext s (busBytes off n v) t := by
  obtain ⟨-, e⟩ | ⟨hm, ⟨u, e, hu⟩ | ⟨-, _, _, -, -, -, e⟩⟩ := busWrite_result off n v s
  · rw [h] at e; cases e
  · rw [h] at e; cases e; exact ⟨hm, hu⟩
  · rw [h] at e; cases e

/-- What byte writes keep, and what they can do to the playback state. -/
theorem BusNext.facts {s t : State} {l : List (Nat × Byte)} (h : BusNext s l t) :
    t.cfg = s.cfg ∧ t.disc = s.disc ∧ t.inputs = s.inputs ∧ t.outputs = s.outputs ∧ dm t = dm s
      ∧ (t.stat = s.stat ∨ validate t.stat = true)
      ∧ (CommandMove s.cfg s.play t.play ∨ t.play = { s.play with status := .checksumError }) := by
  cases h with
  | quiet _ h =>
    obtain ⟨_, _, rfl, hd⟩ := h
    exact ⟨rfl, rfl, rfl, rfl, hd, .inl rfl, .inl .stay⟩
  | @executed u v t _ h _ he h' =>
    obtain ⟨w, e, hw⟩ | ⟨-, e⟩ := execute_result u
    · rw [he] at e
      cases e
      obtain ⟨_, _, rfl, hd⟩ := h
      obtain ⟨_, _, _, rfl, hv, hq⟩ := hw
      obtain ⟨_, _, rfl, hd'⟩ := h'
      exact ⟨rfl, rfl, rfl, rfl, hd'.trans hd, .inr hv, hq⟩
    · rw [he] at e
      cases e

/-- The command an event executes is the one buffered at its trigger (R154, R155). -/
theorem executes_busWrite {s : State} {off : Nat} {n : Size} {v : Long} {i : Instr} (hm : misaligned off n = false)
    (hc : coversTrigger s.cfg off n = true) (hd : decode s.cfg (packetAt s.cfg (busBytes off n v) s.cmd) = .ok i) :
    (Event.busWrite off n v).executes s = some i := by
  simp [Event.executes, hm, hc, hd]

/-- What an insertion can do (R345 to R347). -/
theorem insertDisc_cases (p : DiscPayload) (s : State) :
    (s.disc.present = true ∧ insertDisc p s = .refused .discAlreadyPresent)
    ∨ (s.disc.present = false
        ∧ ((∃ k ts, p = .image k ts ∧ acceptable k ts = true ∧ insertDisc p s = .next (insertOk k ts s))
          ∨ insertDisc p s = .next (insertFailed s))) := by
  unfold insertDisc
  cases hp : s.disc.present with
  | true => simp
  | false =>
    cases p with
    | image k ts => cases ha : acceptable k ts <;> simp [ha]
    | loadError => simp

end Sys2Proof.Machine
end

