-- ==== Sys2Proof/Laws/Outside.lean ====
section
/-!
SUPPORT. No operation reads what waits outside the block: each gives the same result whatever events wait
(00_scope.md R3).
-/
namespace Sys2Proof.Machine

/-- The state with other events waiting. -/
def withInputs (q : List Event) (s : State) : State := { s with inputs := q }

/-- The outcome with other events waiting. -/
def outcomeWith (q : List Event) (r : Result) : Result := andThen r (fun t => .next (withInputs q t))

@[simp] theorem outcomeWith_next (q : List Event) (s : State) : outcomeWith q (.next s) = .next (withInputs q s) := rfl
@[simp] theorem outcomeWith_refused (q : List Event) (e : Refusal) : outcomeWith q (.refused e) = .refused e := rfl

theorem setTrack_with (q : List Event) (e : TrackEntry) (s : State) :
    setTrack e (withInputs q s) = withInputs q (setTrack e s) := by
  simp only [setTrack, apply_ite (withInputs q)]; rfl
theorem refreshTrack_with (q : List Event) (s : State) :
    refreshTrack (withInputs q s) = withInputs q (refreshTrack s) := by
  unfold refreshTrack
  rw [show trackForSector (withInputs q s) (withInputs q s).play.sector = trackForSector s s.play.sector from rfl]
  split
  · exact setTrack_with ..
  · simp only [apply_ite (withInputs q)]; rfl

theorem pollTick_with (q : List Event) (s : State) : pollTick (withInputs q s) = withInputs q (pollTick s) := by
  simp only [pollTick, apply_ite (withInputs q)]
  rw [show ({ withInputs q s with outputs := (withInputs q s).outputs ++ pollOutputs (withInputs q s) } : State) = withInputs q { s with outputs := s.outputs ++ pollOutputs s } from rfl]
  generalize ({ s with outputs := s.outputs ++ pollOutputs s } : State) = s
  rw [show ticking (withInputs q s) = ticking s from rfl]
  congr 1
  unfold pollArm
  rw [show (withInputs q s).play.status = s.play.status from rfl]
  split <;> try rfl
  · simp only [tickReadingToc, apply_ite (withInputs q)]
    simp only [finishToc, ← refreshTrack_with]; rfl
  · simp only [tickSeeking, apply_ite (withInputs q)]
    simp only [finishSeek, ← refreshTrack_with]; rfl
  · simp only [tickPlaying, endTest, apply_ite (withInputs q)]
    by_cases h : pollAdvances s = true
    · have h' : pollAdvances (withInputs q s) = true := h
      simp only [h, h', if_true]
      rw [show setSector ((withInputs q s).play.sector + 1) (withInputs q s) = withInputs q (setSector (s.play.sector + 1) s) from rfl, refreshTrack_with]
      rfl
    · have h' : ¬ pollAdvances (withInputs q s) = true := h
      simp only [h, h']
      rfl

theorem advance_with (q : List Event) (s : State) : advance (withInputs q s) = withInputs q (advance s) := by
  unfold advance
  rw [show trackForSector (withInputs q s) ((withInputs q s).play.sector + 1) = trackForSector s (s.play.sector + 1) from rfl]
  split
  · rw [setTrack_with]; rfl
  · rfl

theorem stepSample_with (q : List Event) (e : TrackEntry) (s : State) :
    stepSample e (withInputs q s) = withInputs q (stepSample e s) := by
  simp only [stepSample, apply_ite (withInputs q), ← advance_with]; rfl

theorem audioTick_with (q : List Event) (io : TrackIo) (s : State) :
    audioTick io (withInputs q s) = withInputs q (audioTick io s) := by
  unfold audioTick
  rw [show audioEntry (withInputs q s) = audioEntry s from rfl]
  split
  · rename_i e _
    rw [stepSample_with]; rfl
  · rfl

theorem audioEvent_with (q : List Event) (io : TrackIo) (s : State) :
    audioEvent io (withInputs q s) = withInputs q (audioEvent io s) := by
  simp only [audioEvent, keepOffsetRange, audioTick_with, apply_ite (withInputs q)]; rfl

theorem buildAbs_with (q : List Event) (s : State) : buildAbs (withInputs q s) = outcomeWith q (buildAbs s) := by
  unfold buildAbs
  rw [show (withInputs q s).play.sector = s.play.sector from rfl]
  split <;> rfl

theorem exec_with (q : List Event) (i : Instr) (s : State) : exec i (withInputs q s) = outcomeWith q (exec i s) := by
  cases i with
  | requestAbs => exact buildAbs_with q (refreshStatus s)
  | driveStatus =>
    simp only [exec, execDriveStatus, apply_ite (outcomeWith q)]
    congr 1
    simp only [repeatReport, apply_ite (outcomeWith q), ← buildAbs_with]
    rfl
  | requestTstart a b => 
    simp only [exec, execRequestTstart]
    rw [show (withInputs q s).disc = s.disc from rfl]
    split <;> rfl
  | _ => rfl

theorem execute_with (q : List Event) (s : State) : execute (withInputs q s) = outcomeWith q (execute s) := by
  simp only [execute, runPacket]
  rw [show (withInputs q s).cmd = s.cmd from rfl, show (withInputs q s).cfg = s.cfg from rfl]
  split
  · rfl
  · rename_i i _
    rw [exec_with]; cases exec i s <;> rfl

theorem writeByte_with (q : List Event) (a : Nat) (b : Byte) (s : State) :
    writeByte a b (withInputs q s) = outcomeWith q (writeByte a b s) := by
  unfold writeByte
  rw [show (withInputs q s).cfg = s.cfg from rfl]
  split <;> try rfl
  simp only [writeCmd, apply_ite (outcomeWith q), ← execute_with]; rfl

theorem writeBytes_with (q : List Event) (l : List (Nat × Byte)) (s : State) :
    writeBytes l (withInputs q s) = outcomeWith q (writeBytes l s) := by
  induction l generalizing s with
  | nil => rfl
  | cons x l ih =>
    simp only [writeBytes, writeByte_with]
    cases writeByte x.1 x.2 s with
    | next t => exact ih t
    | fault e => cases e
    | refused e => rfl

end Sys2Proof.Machine
end

