-- ==== Sys2Proof/Laws/PerInstr.lean ====
section
/-!
SUPPORT. Per-instruction lemmas, family `PacketRow`: the packet of a well-formed command is valid and lies in the
command's own row of spec/opcode_table.json, with the default codes (30_encoding.md R91, R96, R99).
-/
namespace Sys2Proof.Laws.PacketRow

/-- The table's row of a command: `CMD[0]`, the mask on `CMD[3]`, and what `CMD[3]` is under it. Every other bit is
outside the table's masks. -/
def row : Instr → Nib × Nib × Nib
  | .driveStatus => (0x0, 0x0, 0x0)
  | .stop => (0x1, 0x0, 0x0)
  | .requestAbs => (0x2, 0xF, 0x0)
  | .requestRel => (0x2, 0xF, 0x1)
  | .requestTrack => (0x2, 0xF, 0x2)
  | .requestTotal => (0x2, 0xF, 0x3)
  | .requestTracks => (0x2, 0xF, 0x4)
  | .requestTstart _ _ => (0x2, 0xF, 0x5)
  | .requestError => (0x2, 0xF, 0x6)
  | .requestUnassigned7 => (0x2, 0xF, 0x7)
  | .requestUnassigned8F _ => (0x2, 0x8, 0x8)
  | .seekPlay _ _ _ _ _ _ => (0x3, 0x0, 0x0)
  | .seekPause _ _ _ _ _ _ => (0x4, 0x0, 0x0)
  | .unassigned5 => (0x5, 0x0, 0x0)
  | .pause => (0x6, 0x0, 0x0)
  | .play => (0x7, 0x0, 0x0)
  | .forward => (0x8, 0x0, 0x0)
  | .reverse => (0x9, 0x0, 0x0)
  | .trackSkip => (0xA, 0x0, 0x0)
  | .trackCue => (0xB, 0x0, 0x0)
  | .doorClose => (0xC, 0x0, 0x0)
  | .doorOpen => (0xD, 0x0, 0x0)
  | .unassignedE => (0xE, 0x0, 0x0)
  | .unassignedF => (0xF, 0x0, 0x0)

/-- What the family says of a command. -/
def Statement (i : Instr) : Prop :=
  i.wf .default = true → validate (encode .default i) = true
    ∧ (encode .default i).n0 = (row i).1 ∧ (encode .default i).n3 &&& (row i).2.1 = (row i).2.2

/-- The checksum of a packet that `encode` gives is right, whatever the command. -/
theorem validate_encode (c : Config) (i : Instr) : validate (encode c i) = true := by
  cases i <;> simp [validate, encode, packetN, packetR, packetS, sealBank, chk]

theorem driveStatus : Statement (.driveStatus) := fun _ => ⟨validate_encode _ _, rfl, rfl⟩
theorem stop : Statement (.stop) := fun _ => ⟨validate_encode _ _, rfl, rfl⟩
theorem requestAbs : Statement (.requestAbs) := fun _ => ⟨validate_encode _ _, rfl, rfl⟩
theorem requestRel : Statement (.requestRel) := fun _ => ⟨validate_encode _ _, rfl, rfl⟩
theorem requestTrack : Statement (.requestTrack) := fun _ => ⟨validate_encode _ _, rfl, rfl⟩
theorem requestTotal : Statement (.requestTotal) := fun _ => ⟨validate_encode _ _, rfl, rfl⟩
theorem requestTracks : Statement (.requestTracks) := fun _ => ⟨validate_encode _ _, rfl, rfl⟩
theorem requestTstart (t10 t1 : Nib) : Statement (.requestTstart t10 t1) :=
  fun _ => ⟨validate_encode _ _, rfl, show Config.default.reqCode .trackStartTime &&& 0xF = 0x5 by decide⟩
theorem requestError : Statement (.requestError) := fun _ => ⟨validate_encode _ _, rfl, rfl⟩
theorem requestUnassigned7 : Statement (.requestUnassigned7) := fun _ => ⟨validate_encode _ _, rfl, rfl⟩
theorem requestUnassigned8F (sub : Nib) : Statement (.requestUnassigned8F sub) :=
  fun h => ⟨validate_encode _ _, rfl, by revert h; revert sub; decide⟩
theorem seekPlay (m10 m1 s10 s1 f10 f1 : Nib) : Statement (.seekPlay m10 m1 s10 s1 f10 f1) :=
  fun _ => ⟨validate_encode _ _, rfl, BitVec.and_zero⟩
theorem seekPause (m10 m1 s10 s1 f10 f1 : Nib) : Statement (.seekPause m10 m1 s10 s1 f10 f1) :=
  fun _ => ⟨validate_encode _ _, rfl, BitVec.and_zero⟩
theorem unassigned5 : Statement (.unassigned5) := fun _ => ⟨validate_encode _ _, rfl, rfl⟩
theorem pause : Statement (.pause) := fun _ => ⟨validate_encode _ _, rfl, rfl⟩
theorem play : Statement (.play) := fun _ => ⟨validate_encode _ _, rfl, rfl⟩
theorem forward : Statement (.forward) := fun _ => ⟨validate_encode _ _, rfl, rfl⟩
theorem reverse : Statement (.reverse) := fun _ => ⟨validate_encode _ _, rfl, rfl⟩
theorem trackSkip : Statement (.trackSkip) := fun _ => ⟨validate_encode _ _, rfl, rfl⟩
theorem trackCue : Statement (.trackCue) := fun _ => ⟨validate_encode _ _, rfl, rfl⟩
theorem doorClose : Statement (.doorClose) := fun _ => ⟨validate_encode _ _, rfl, rfl⟩
theorem doorOpen : Statement (.doorOpen) := fun _ => ⟨validate_encode _ _, rfl, rfl⟩
theorem unassignedE : Statement (.unassignedE) := fun _ => ⟨validate_encode _ _, rfl, rfl⟩
theorem unassignedF : Statement (.unassignedF) := fun _ => ⟨validate_encode _ _, rfl, rfl⟩

end Sys2Proof.Laws.PacketRow
end

