-- ==== Sys2Proof/Tests/Slice0.lean ====
section
/-!
SUPPORT. Small tests: expected results are the spec's own examples and vectors (95_test_vectors.md), cited one by one.
-/
namespace Sys2Proof.Tests

open Sys2Proof.Machine

/-! ### Well-formedness -/

/-- R99: sub-code 7 is not of the row REQUEST_UNASSIGNED_8_F. -/
theorem test_wf_refuses_sub7 : (Instr.requestUnassigned8F 7).wf .default = false := by decide
theorem test_wf_accepts_sub8 : (Instr.requestUnassigned8F 8).wf .default = true := by decide

/-! ### Checksum: the table of 95_test_vectors.md 2.1, packets as 40-bit numbers with `CMD[9]` 0 -/

theorem test_chk_examples :
    [0x0000000000, 0x1000000000, 0xF000000000, 0x0F00000010, 0x3000285000, 0x2005010000, 0x1234567890,
     0xFFFFFFFFF0].map (fun w => chk (packetOfNat w)) = [0xF, 0xE, 0x0, 0xF, 0xD, 0x7, 0x2, 0x8] := by decide

/-- S1: one packet valid, three neighbours not. -/
theorem test_validate_S1 :
    [0x300028500D, 0x300028500C, 0x310028500D, 0x300028501D].map (fun w => validate (packetOfNat w))
      = [true, false, false, false] := by decide

/-! ### Decoding: one packet of R112 per row of the table, bit by bit -/

theorem test_decode_status_and_doors :
    decodeTableWord 40 0b0000000000000000000000000000000000001111 = some .driveStatus
    ∧ decodeTableWord 40 0b0001000000000000000000000000000000001110 = some .stop
    ∧ decodeTableWord 40 0b1100000000000000000000000000000000000011 = some .doorClose
    ∧ decodeTableWord 40 0b1101000000000000000000000000000000000010 = some .doorOpen := by decide

theorem test_decode_play_family :
    decodeTableWord 40 0b0110000000000000000000000000000000001001 = some .pause
    ∧ decodeTableWord 40 0b0111000000000000000000000000000000001000 = some .play
    ∧ decodeTableWord 40 0b1000000000000000000000000000000000000111 = some .forward
    ∧ decodeTableWord 40 0b1001000000000000000000000000000000000110 = some .reverse
    ∧ decodeTableWord 40 0b1010000000000000000000000000000000000101 = some .trackSkip := by decide

theorem test_decode_unsupported :
    decodeTableWord 40 0b1011000000000000000000000000000000000100 = some .trackCue
    ∧ decodeTableWord 40 0b0101000000000000000000000000000000001010 = some .unassigned5
    ∧ decodeTableWord 40 0b1110000000000000000000000000000000000001 = some .unassignedE
    ∧ decodeTableWord 40 0b1111000000000000000000000000000000000000 = some .unassignedF := by decide

theorem test_decode_requests :
    decodeTableWord 40 0b0010000000000000000000000000000000001101 = some .requestAbs
    ∧ decodeTableWord 40 0b0010000000000001000000000000000000001100 = some .requestRel
    ∧ decodeTableWord 40 0b0010000000000010000000000000000000001011 = some .requestTrack
    ∧ decodeTableWord 40 0b0010000000000011000000000000000000001010 = some .requestTotal
    ∧ decodeTableWord 40 0b0010000000000100000000000000000000001001 = some .requestTracks
    ∧ decodeTableWord 40 0b0010000000000101000000100000000000000110 = some (.requestTstart 0 2)
    ∧ decodeTableWord 40 0b0010000000000110000000000000000000000111 = some .requestError
    ∧ decodeTableWord 40 0b0010000000000111000000000000000000000110 = some .requestUnassigned7
    ∧ decodeTableWord 40 0b0010000000001111000000000000000000001110 = some (.requestUnassigned8F 15) := by decide

theorem test_decode_seeks :
    decodeTableWord 40 0b0011000000000000001010000100100100000101 = some (.seekPlay 0 0 2 8 4 9)
    ∧ decodeTableWord 40 0b0100000001100000000000000000000000000101 = some (.seekPause 6 0 0 0 0 0) := by decide

/-- VC25: ignored nibbles. -/
theorem test_decode_ignored_nibbles : decode .default (packetOfNat 0x012345678B) = .ok .driveStatus := by decide
theorem test_decode_bad_checksum : decode .default (packetOfNat 0x7000000009) = .error .badChecksum := by decide
theorem test_encode_R112 :
    packetToNat (encode .default (.seekPause 6 0 0 0 0 0)) = 0x4060000005
    ∧ packetToNat (encode .default (.requestTstart 0 2)) = 0x2005020006 := by decide

/-! ### Other code maps (92_eei_decisions.md D2, D3: the codes are parameters) -/

/-- `CMD_CODE` in the listing order of R96, without gaps: Pause is 5, and 0xD to 0xF are unassigned. -/
def listed : Config :=
  { Config.default with cmdCodes := #v[0x0, 0x1, 0x2, 0x3, 0x4, 0x5, 0x6, 0x7, 0x8, 0x9, 0xA, 0xB, 0xC] }

/-- `REQ_CODE` with its values in falling order from 8, so that 0 and 1 are unassigned. -/
def falling : Config := { Config.default with reqCodes := #v[0x8, 0x7, 0x6, 0x5, 0x4, 0x3, 0x2] }

theorem test_codes_wf : Config.default.wf = true ∧ listed.wf = true ∧ falling.wf = true
    ∧ { Config.default with reqCodes := #v[0x0, 0x1, 0x2, 0x3, 0x4, 0x5, 0xF] }.wf = false
    ∧ { listed with cmdCodes := listed.cmdCodes.set 0 0x1 }.wf = false := by decide
theorem test_codes_listed : decode listed (packetOfNat 0x500000000A) = .ok .pause
    ∧ decode listed (packetOfNat 0x6000000009) = .ok .play ∧ decode listed (packetOfNat 0xC000000003) = .ok .doorOpen
    ∧ decode listed (packetOfNat 0xD000000002) = .ok .unassigned5
    ∧ decode listed (packetOfNat 0xF000000000) = .ok .unassignedF := by decide
theorem test_codes_falling : decode falling (packetOfNat 0x200200000B) = .ok .requestError
    ∧ decode falling (packetOfNat 0x2003020008) = .ok (.requestTstart 0 2)
    ∧ decode falling (packetOfNat 0x200000000D) = .ok .requestUnassigned7
    ∧ decode falling (packetOfNat 0x200F00000E) = .ok (.requestUnassigned8F 15) := by decide

/-! ### Time code: the instances of S4 and 95_test_vectors.md 2.2 -/

theorem test_toSector : toSector 0 0 0 = -150 ∧ toSector 0 2 0 = 0 ∧ toSector 1 8 50 = 5000
    ∧ toSector 99 59 74 = 449849 ∧ toSector 165 165 165 = 754890 := by decide
theorem test_toMsf : toMsf (-151) = none ∧ toMsf (-1) = some ⟨0, 1, 74⟩ ∧ toMsf 2500 = some ⟨0, 35, 25⟩
    ∧ toMsf 449850 = some ⟨100, 0, 0⟩ := by decide
theorem test_bcd : (bcdTens 35, bcdUnits 35) = (3, 5) ∧ (bcdTens 123, bcdUnits 123) = (0xC, 3) := by decide

/-- The table of 95_test_vectors.md 2.3. -/
theorem test_latency :
    [((0 : Int), (10000 : Int), 0), (2000, 151, 0), (4999, 151, 0), (269850, 151, 0), (151, 151, 0), (4999, 2000, 6),
     (0, 269850, 128), (754890, 0, 0)].map
      (fun x => seekLatency .default x.2.2 (seekDist .default x.1 x.2.1))
      = [15, 11, 13, 130, 11, 7, 247, 346] := by decide

/-! ### States -/

/-- Disc A of 95_test_vectors.md, as its two tracks. -/
def discA : List TrackSource := [⟨.data, 4704000, []⟩, ⟨.audio, 7056000, [(2352, 0x34), (2353, 0x12), (2354, 0xFE), (2355, 0xFF)]⟩]

/-- State P of 95_test_vectors.md with the status bank numbered `bank`. -/
def stateP (bank : Nat) : State :=
  { State.reset with
    stat := packetOfNat bank, control := 0x0104, disc := loadDisc .binCue discA,
    play := ⟨.paused, 1, 151, 0, 0, .stopped, true⟩ }

/-- The state a step leaves; the state before it where it stops. -/
def after (s : State) : State :=
  match step s with
  | .next t => t
  | .fault _ => s
  | .refused _ => s

/-- The state after the packet numbered `w` runs. -/
def send (w : Nat) (s : State) : State := after (s.withFetchWord 40 w)

/-- The state after the event. -/
def feed (e : Event) (s : State) : State := after { s with inputs := [e] }

/-- The status bank as a number. -/
def bank (s : State) : Nat := packetToNat s.stat

/-- Playing track 2 of Disc A: the start state of VA1 to VA4. -/
def stateA : State :=
  { stateP 0x000000000F with control := 0x0004, play := ⟨.playing, 2, 2001, 0, 0, .stopped, true⟩ }

/-! ### Commands: vectors VC1 to VC34 -/

theorem test_driveStatus_VC1 : bank (send 0x000000000F (stateP 0xB000000004)) = 0x4000040142 := by decide
theorem test_driveStatus_VC2_VC4 : bank (send 0x000000000F (stateP 0x4100000000)) = 0x4100020143
    ∧ bank (send 0x000000000F (stateP 0x4500285025)) = 0x4500285025 := by decide
theorem test_stop_VC5 : bank (send 0x100000000E (stateP 0x4000040142)) = 0x000000000F
    ∧ (send 0x100000000E (stateP 0x4000040142)).play.status = .readingToc := by decide
theorem test_stop_VC33_no_disc : (send 0x100000000E State.reset).play.status = .noDisc := by decide
theorem test_pause_VC6 : bank (send 0x6000000009 (stateP 0x120100000B)) = 0x4201000008 := by decide
theorem test_play_VC7 : bank (send 0x7000000008 (stateP 0x4000040142)) = 0x1000040145
    ∧ (send 0x7000000008 (stateP 0x4000040142)).play.status = .playing := by decide
theorem test_forward_VC8 : bank (send 0x8000000007 (stateP 0x4201000008)) = 0x3201000009 := by decide
theorem test_reverse_VC9 : bank (send 0x9000000006 (stateP 0x4201000008)) = 0x3201000009 := by decide
theorem test_trackSkip_VC10 : bank (send 0xA000000005 (stateP 0x120100000B)) = 0x4201000008 := by decide
theorem test_trackCue_VC11 : bank (send 0xB000000004 (stateP 0x000000000F)) = 0x400000000B := by decide
theorem test_doorClose_VC12 : bank (send 0xC000000003 (stateP 0x4000040142)) = 0x000000000F := by decide
theorem test_doorOpen_VC13 : bank (send 0xD000000002 (stateP 0x4000040142)) = 0x500000000A
    ∧ (send 0xD000000002 (stateP 0x4000040142)).play.status = .doorOpened := by decide
theorem test_unassigned_VC14_VC15 : bank (send 0x500000000A (stateP 0x4000040142)) = 0x4000040142
    ∧ bank (send 0xE000000001 (stateP 0x4000040142)) = 0x4000040142 := by decide
/-- R196's example shape with code 0xF, sum 15: checksum 0. -/
theorem test_unassignedF : bank (send 0xF000000000 (stateP 0xB000000004)) = 0x400000000B := by decide
theorem test_requestAbs_VC16 : bank (send 0x200000000D (stateP 0xB000000004)) = 0x4000040142 := by decide
theorem test_requestRel_VC17 : bank (send 0x200100000C (stateP 0xB000000004)) = 0x4100020143 := by decide
theorem test_requestTrack_VC18 : bank (send 0x200200000B (stateP 0xB000000004)) = 0x4201000008 := by decide
theorem test_requestTotal_VC19 : bank (send 0x200300000A (stateP 0xB000000004)) = 0x430108500A := by decide
theorem test_requestTracks_VC20 : bank (send 0x2004000009 (stateP 0xB000000004)) = 0x4401020004 := by decide
theorem test_requestTstart_VC21 : bank (send 0x2005010007 (stateP 0xB000000004)) = 0x450002801B
    ∧ bank (send 0x2005020006 (stateP 0xB000000004)) = 0x4500285025 := by decide
/-- VC24: for a missing track only the status and the selector are fixed. -/
theorem test_requestTstart_VC24 : (send 0x2005030005 (stateP 0xB000000004)).stat.n0 = 4
    ∧ (send 0x2005030005 (stateP 0xB000000004)).stat.n1 = 5 := by decide
theorem test_requestError_VC22 : bank (send 0x2006000007 (stateP 0xB000000004)) = 0x4600000005 := by decide
theorem test_requestUnassigned_VC23 : bank (send 0x2007000006 (stateP 0x4600000005)) = 0x4600000005
    ∧ bank (send 0x200F00000E (stateP 0x4600000005)) = 0x4600000005 := by decide
theorem test_seekPlay_VC26 : bank (send 0x300028500D (stateP 0xB000000004)) = 0x2F0000000E
    ∧ (send 0x300028500D (stateP 0xB000000004)).play = ⟨.seeking, 1, 2000, 0, 11, .playing, true⟩ := by decide
theorem test_seekPlay_VC32 : (send 0x30F0F0F00F (stateP 0xB000000004)).play.sector = 686250
    ∧ (send 0x30F0F0F00F (stateP 0xB000000004)).play.latency = 315 := by decide
theorem test_seekPause_VC27 : (send 0x400028500C (stateP 0xB000000004)).play
    = ⟨.seeking, 1, 2000, 0, 11, .paused, true⟩ := by decide
/-- VC33: with no disc. -/
theorem test_no_disc_VC33 : bank (send 0x000000000F State.reset) = 0xB000020002
    ∧ bank (send 0x2004000009 { State.reset with play := .defaults .playing }) = 0x140000000A := by decide

/-- D2, D3: the machine runs on the codes of its own parameters, and reports the selector of its own `REQ_CODE`. -/
theorem test_codes_run : bank (send 0x500000000A { stateP 0x120100000B with cfg := listed }) = 0x4201000008
    ∧ bank (send 0x200200000B { stateP 0xB000000004 with cfg := falling }) = 0x4200000009 := by decide

/-! ### Bus: vectors VB1 to VB8 -/

theorem test_bus_VB1 : (feed (.busRead 0x38 .word) State.reset).outputs = [.readData [some 0x0B, some 0x00]]
    ∧ (feed (.busRead 0x40 .word) State.reset).outputs = [.readData [some 0x00, some 0x04]] := by decide
theorem test_bus_VB4_upper_bits : (feed (.busWrite 0x42 .long 0xF7F0F0F0) (stateP 0)).cmd = packetOfNat 0x7000000000 := by
  decide
theorem test_bus_VB6_control : (feed (.busWrite 0x36 .word 0xFFFF) { State.reset with control := 0x0004 }).control = 0xFEFF
    ∧ (feed (.busWrite 0x36 .word 0x0004) (stateP 0)).control = 0x0104 := by decide
theorem test_bus_VB7_long_trigger :
    bank (feed (.busWrite 0x48 .long 0x00000006) { stateP 0x120100000B with cmd := packetOfNat 0x7000000008 })
      = 0x6201000006 := by decide
theorem test_bus_VB5_VB8 : feed (.busWrite 0x38 .long 0xFFFFFFFF) (stateP 0) = stateP 0
    ∧ feed (.busWrite 0x34 .word 0x1234) (stateP 0) = stateP 0 := by decide
theorem test_bus_odd_word_refused : (match step { State.reset with inputs := [.busRead 0x39 .word] } with
    | .refused (.misalignedAccess a) => a == 0x39
    | _ => false) = true := by decide

/-! ### Ticks and disc events: vectors VT, VA, VD -/

/-- S9, VC34: a checksum error keeps everything but the status and its nibble. -/
theorem test_checksum_error_S9 :
    bank (feed (.busWrite 0x4B .byte 9) { stateP 0x4000040142 with cmd := packetOfNat 0x7000000000 }) = 0x6000040140 := by
  decide
theorem test_poll_VT1 : (feed .pollTick State.reset).outputs = [.cdcSector 0]
    ∧ (feed .pollTick { State.reset with control := 4 }).outputs = [.cdcSector 0, .irq] := by decide
/-- VT2, the last tick of the TOC read. -/
theorem test_poll_VT2 : (feed .pollTick { stateP 0 with control := 4, play := ⟨.readingToc, 0, 150, 0, 0, .stopped, false⟩ }).play
    = ⟨.paused, 1, 151, 0, 0, .stopped, true⟩ := by decide
/-- VT5, inclusive: from 2000 on track 1 to 2001 on track 2, `DM` cleared. -/
theorem test_poll_VT5 : (feed .pollTick { stateP 0 with play := ⟨.playing, 1, 2000, 0, 0, .stopped, true⟩ }).play.track = 2
    ∧ (feed .pollTick { stateP 0 with play := ⟨.playing, 1, 2000, 0, 0, .stopped, true⟩ }).control = 0x0004 := by decide
/-- VT6. -/
theorem test_poll_VT6 : (feed .pollTick { stateA with play := ⟨.playing, 2, 5000, 0, 0, .stopped, true⟩ }).play
    = ⟨.leadOut, 0xAA, 5000, 0, 0, .stopped, true⟩ := by decide
/-- VC31: a seek past the disc completes in LeadOut. -/
theorem test_poll_VC31 : (feed .pollTick { stateP 0 with play := ⟨.seeking, 1, 8850, 0, 1, .paused, true⟩ }).play
    = ⟨.leadOut, 0xAA, 8850, 0, 0, .paused, true⟩ := by decide
theorem test_audio_VA1 : (feed (.audioTick .image) stateA).outputs = [.sample 4660 (-2)]
    ∧ (feed (.audioTick .image) stateA).play.sampleOffset = 4 := by decide
theorem test_audio_VA2 : (feed (.audioTick .failure) stateA).outputs = [.sample 0 0]
    ∧ (feed (.audioTick .failure) stateA).play.sampleOffset = 4 := by decide
/-- VA6, exclusive reading, its 588th tick. -/
theorem test_audio_VA6 : (feed (.audioTick .failure)
      { stateA with cfg := { Config.default with trackEndInclusive := false },
                    play := ⟨.playing, 2, 4999, 2348, 0, .stopped, true⟩ }).play
    = ⟨.leadOut, 0xAA, 4999, 2352, 0, .stopped, true⟩ := by decide
/-- R36, R296: LeadOut keeps the offset reached, within the sector size; a restored one beyond it is kept too; R295: a
next sector starts at 0. -/
theorem test_audio_leadout_offset :
    [2344, 2348, 2352, 3000].map (fun n => (feed (.audioTick .image)
        { stateA with play := ⟨.playing, 2, 5000, n, 0, .stopped, true⟩ }).play)
      = [⟨.playing, 2, 5000, 2348, 0, .stopped, true⟩, ⟨.leadOut, 0xAA, 5000, 2352, 0, .stopped, true⟩,
         ⟨.leadOut, 0xAA, 5000, 2352, 0, .stopped, true⟩, ⟨.leadOut, 0xAA, 5000, 3004, 0, .stopped, true⟩]
    ∧ (feed (.audioTick .image) { stateA with play := ⟨.playing, 2, 2001, 3000, 0, .stopped, true⟩ }).play
      = ⟨.playing, 2, 2002, 0, 0, .stopped, true⟩ := by decide
/-- R292: in a sector below the track's start the read is a failure, whatever the offset comes to. -/
theorem test_audio_below_track : (feed (.audioTick (.supplied 1 2 3 4))
      { stateA with play := ⟨.playing, 2, 1999, 2352, 0, .stopped, true⟩ }).outputs = [.sample 0 0] := by decide
/-- S6: Scenario A. -/
theorem test_insert_S6 : (feed (.insertDisc (.image .binCue discA)) State.reset).disc.totalEnd = 5000
    ∧ ((trackForSector (feed (.insertDisc (.image .binCue discA)) State.reset) 2500).map (·.number)) = some 2 := by decide
/-- R133: a 149-sector track of a non-ISO image is a load error. -/
theorem test_insert_too_short : feed (.insertDisc (.image .binCue [⟨.data, 149 * 2352, []⟩])) State.reset
    = { State.reset with outputs := [.loadFailure] } := by decide
/-- VD3. -/
theorem test_eject_VD3 : bank (feed .eject (stateP 0x4000040142)) = 0x4000040142
    ∧ (feed .eject (stateP 0x4000040142)).play = .defaults .noDisc := by decide
/-- R47, VD1: the reset bank. -/
theorem test_reset_bank : packetToNat State.reset.stat = 0xB000000004 ∧ resetBlock State.reset = State.reset := by decide
theorem test_reset_ok : State.ok State.reset = true ∧ State.ok (stateP 0) = true ∧ State.ok stateA = true := by decide

/-! ### Witnesses: for every obligation with hypotheses, a state and operands that meet them -/

/-- Disc A of 95_test_vectors.md in State P, with the given events waiting and the given playback state. -/
def ready (es : List Event) (p : Playback) : State := { stateP 0xB000000004 with control := 0x0104, inputs := es, play := p }

/-- The playback state of State P with another status and sector. -/
def at_ (st : Status) (track : TrackNumber) (sector : Int) : Playback := ⟨st, track, sector, 0, 0, .stopped, true⟩

/-- No disc, with the given events waiting. -/
def bare (es : List Event) : State := { State.reset with inputs := es }

/-- The nibbles that the formats name. -/
def named (p : Bank) : List Nib := [p.n0, p.n2, p.n3, p.n4, p.n5, p.n6, p.n7]

/-- What `ready` is for the witnesses below: ticks are enabled, the disc is good, the rest is as given. -/
theorem ready_is (es : List Event) (p : Playback) : (ready es p).inputs = es ∧ (ready es p).play = p
    ∧ (ready es p).control.getLsbD 2 = true ∧ (ready es p).disc.present = true ∧ (ready es p).disc.ok = true :=
  ⟨rfl, rfl, show (0x0104 : Half).getLsbD 2 = true by decide, rfl, show (loadDisc .binCue discA).ok = true by decide⟩

theorem witness_DecodeEncodeRoundTrip : Config.default.wf = true ∧ listed.wf = true ∧ falling.wf = true
    ∧ (Instr.requestUnassigned8F 1).wf falling = true ∧ (Instr.requestUnassigned8F 8).wf .default = true ∧ (Instr.requestUnassigned8F 15).wf .default = true
    ∧ (Instr.seekPlay 15 0 15 0 15 15).wf .default = true := by decide
theorem witness_EveryPacketHasOneReading :
    listed.wf = true ∧ falling.wf = true ∧ validate (packetOfNat 0x200500000F) = false ∧ validate (packetOfNat 0x2005000008) = true
    ∧ named (packetOfNat 0x3123456781) = named (packetOfNat 0x3F2345670E)
    ∧ (packetOfNat 0x123456789A).n0 = (packetOfNat 0x1000000000).n0
    ∧ (packetOfNat 0x123456789A).n0 ∉ [listed.cmdCode .request, listed.cmdCode .seekPlay, listed.cmdCode .seekPause]
    ∧ (packetOfNat 0x2FF510FFF0).n0 = falling.cmdCode .request ∧ (packetOfNat 0x2005100000).n0 = falling.cmdCode .request
    ∧ (named (packetOfNat 0x2FF510FFF0)).extract 2 5 = (named (packetOfNat 0x2005100000)).extract 2 5 := by decide
/-- A seek with six different digits, a track start with two, and codes that neither map assigns. -/
theorem witness_EveryPacketHasOneReading_codes :
    [0x3F23456702, 0x4F23456701, 0x2FF380FFF7].map (fun w => validate (packetOfNat w)) = [true, true, true]
    ∧ (packetOfNat 0x3F23456702).n0 = listed.cmdCode .seekPlay ∧ (packetOfNat 0x4F23456701).n0 = listed.cmdCode .seekPause
    ∧ (packetOfNat 0x2FF380FFF7).n3 = falling.reqCode .trackStartTime
    ∧ validate (packetOfNat 0xD000000002) = true ∧ Command.all.all (fun x => 0xD != listed.cmdCode x) = true
    ∧ validate (packetOfNat 0x200000000D) = true ∧ SubCommand.all.all (fun x => 0x0 != falling.reqCode x) = true := by decide
theorem witness_OneChangedNibbleIsDetected :
    validate (packetOfNat 0x000000000F) = true ∧ (0xE : Nib) ≠ Bank.get (packetOfNat 0x000000000F) 9 := by decide
theorem witness_StepRunsTheDecodedInstruction :
    (bare [.busWrite 0x4B .byte 0x0000000F]).inputs = .busWrite (offTrigger State.reset.cfg) .byte 0x0000000F :: []
    ∧ decode State.reset.cfg { State.reset.cmd with n9 := (0x0000000F : Long).extractLsb' 0 4 } = .ok .driveStatus := by decide
theorem witness_WrongChecksumIsReported :
    validate { State.reset.cmd with n9 := (0x0000000E : Long).extractLsb' 0 4 } = false := by decide
theorem witness_FetchWordRunsItsInstruction : (stateP 0).cfg.wf = true ∧ { stateP 0 with cfg := listed }.cfg.wf = true
    ∧ (Instr.requestUnassigned8F 9).wf listed = true ∧ (Instr.seekPause 6 0 0 0 0 0).wf .default = true := by decide
theorem witness_EveryReplyIsSealed : (∃ t, execute (stateP 0) = .next t)
    ∧ (∃ t, step (bare [.pollTick]) = .next t) ∧ (∃ t, step (bare [.audioTick .image]) = .next t)
    ∧ (∃ t, step (bare [.insertDisc .loadError]) = .next t) ∧ (∃ t, step (bare [.eject]) = .next t) :=
  ⟨⟨_, rfl⟩, ⟨_, rfl⟩, ⟨_, rfl⟩, ⟨_, rfl⟩, ⟨_, rfl⟩⟩
theorem witness_StatusChecksumKept : validate State.reset.stat = true
    ∧ (Event.restoreState (savedOf State.reset)).restoresValid = true
    ∧ ∃ t, step (bare [.restoreState (savedOf State.reset)]) = .next t := ⟨by decide, by decide, _, rfl⟩
theorem witness_TrackTableKept : (ready [.eject] (at_ .paused 1 151)).disc.ok = true
    ∧ ∃ t, step (ready [.eject] (at_ .paused 1 151)) = .next t := ⟨by decide, _, rfl⟩
theorem witness_PlaybackRangesKept : (ready [.pollTick] (at_ .playing 2 4999)).ok = true
    ∧ (Event.restoreState (savedOf stateA)).restoresOk stateA.cfg stateA.disc = true
    ∧ ∃ t, step (ready [.pollTick] (at_ .playing 2 4999)) = .next t := ⟨by decide, by decide, _, rfl⟩
/-- `sampleOffset` inside the sector, at its size in the lead-in and again on a track, and one sample past it, which only
the reading without the bound of R36 and R40 allows. -/
theorem witness_PlaybackRangesKept_offset :
    [(⟨.playing, 2, 5000, 2348, 0, .stopped, true⟩ : Playback), ⟨.leadOut, 0xAA, -150, 2352, 0, .stopped, true⟩,
        ⟨.playing, 2, 5000, 2352, 0, .stopped, true⟩, ⟨.leadOut, 0xAA, 5000, 2356, 0, .stopped, true⟩,
        ⟨.playing, 2, -150, 2352, 0, .stopped, true⟩, ⟨.leadOut, 0xAA, 4998, 2356, 0, .stopped, true⟩,
        ⟨.leadOut, 0xAA, 5000, 2360, 0, .stopped, true⟩].map
        (fun p => [true, false].map (fun b => p.offsetOk { Config.default with offsetBounded := b } (stateP 0).disc))
      = [[true, true], [true, true], [true, true], [false, true], [false, false], [false, false], [false, false]]
    ∧ (Event.restoreState (savedOf stateA)).restoresOffset stateA.cfg stateA.disc = true
    ∧ (∃ t, step (ready [.audioTick .failure] ⟨.playing, 2, 5000, 2352, 0, .stopped, true⟩) = .next t) :=
  ⟨by decide, by decide, _, rfl⟩
theorem witness_ResetValues : (ready [.reset] (at_ .paused 1 151)).inputs = .reset :: []
    ∧ (ready [.reset] (at_ .paused 1 151)).cfg = State.reset.cfg := by decide
theorem witness_GoodHostIsNeverRefused : (ready [] (at_ .playing 1 (-150))).ok = true
    ∧ (Event.busWrite 0x48 .long 6).acceptable (stateP 0) = true ∧ (Event.busRead 0x39 .byte).acceptable (stateP 0) = true
    ∧ (Event.insertDisc .loadError).acceptable State.reset = true ∧ (bare []).inputs = [] := by decide
/-- A word write that buffers Request AbsoluteTime and sends it, and DriveStatus that repeats it, below the lead-in. -/
def absBelow : State := { ready [.busWrite 0x4A .word 0x000D] (at_ .paused 1 (-151)) with cmd := packetOfNat 0x2000000070 }
def statusBelow : State :=
  { ready [.busWrite 0x4B .byte 0xF] ⟨.seeking, 1, -151, 0, 3, .paused, true⟩ with stat := packetOfNat 0x4000000000 }
theorem witness_RefusalsAreTheSpecsThree :
    step (bare [.busWrite 0x39 .word 0]) = .refused (.misalignedAccess 0x39)
    ∧ step (bare [.busRead 0x3B .long]) = .refused (.misalignedAccess 0x3B)
    ∧ step (ready [.insertDisc .loadError] (at_ .paused 1 151)) = .refused .discAlreadyPresent
    ∧ step absBelow = .refused (.timeCodeBelowLeadIn (-151)) ∧ step statusBelow = .refused (.timeCodeBelowLeadIn (-151)) :=
  ⟨rfl, rfl, rfl, rfl, rfl⟩
theorem witness_RefusalsAreTheSpecsThree_executes :
    (Event.busWrite 0x4A .word 0x000D).executes absBelow = some .requestAbs
    ∧ (Event.busWrite 0x4B .byte 0xF).executes statusBelow = some .driveStatus ∧ statusBelow.play.latency ≤ 3
    ∧ statusBelow.stat.n1 = statusBelow.cfg.reqCode .absoluteTime := by decide
theorem witness_StepDependsOnTheBlockAlone : sameBlock (bare [.eject]) { bare [.eject, .pollTick] with outputs := [.irq] } :=
  ⟨rfl, rfl, rfl, rfl, rfl, rfl, rfl⟩
theorem witness_RestoreUndoesEverything : (bare [.saveState]).inputs = .saveState :: []
    ∧ (bare [.restoreState (savedOf State.reset)]).inputs = .restoreState (savedOf State.reset) :: [] := by decide
/-- For the clauses of WhoWritesDiscAndCommandBank, WhoWritesControl and WhoWritesLatency. -/
theorem witness_WhoWrites : (∃ t, step (ready [.pollTick] (at_ .seeking 1 2000)) = .next t)
    ∧ (∃ t, step (bare [.busWrite 0x36 .word 0xFFFF]) = .next t) ∧ (∃ t, step (bare [.busRead 0x36 .word]) = .next t)
    ∧ (∃ t, step (bare [.audioTick .failure]) = .next t) ∧ ∃ t, step (bare [.saveState]) = .next t :=
  ⟨⟨_, rfl⟩, ⟨_, rfl⟩, ⟨_, rfl⟩, ⟨_, rfl⟩, ⟨_, rfl⟩⟩
/-- A byte write, and a word write, that executes a seek. -/
theorem witness_WhoWritesLatency :
    (Event.busWrite 0x4B .byte 0xD).executes { bare [] with cmd := packetOfNat 0x3000285000 } = some (.seekPlay 0 0 2 8 5 0)
    ∧ (Event.busWrite 0x4A .word 0xC).executes { bare [] with cmd := packetOfNat 0x40002850FF } = some (.seekPause 0 0 2 8 5 0)
    ∧ (Event.busWrite 0x48 .word 0xC).executes { bare [] with cmd := packetOfNat 0x4000285000 } = none := by decide
theorem witness_OnlyTheTriggerWritesTheReply :
    (∃ t, step { bare [.busWrite 0x48 .long 0x0000000E] with cmd := packetOfNat 0x1000000000 } = .next t
      ∧ t.stat ≠ State.reset.stat)
    ∧ coversTrigger State.reset.cfg 0x48 .long = true ∧ coversTrigger State.reset.cfg 0x4A .word = true
    ∧ coversTrigger State.reset.cfg 0x4B .byte = true ∧ coversTrigger State.reset.cfg 0x4A .byte = false
    ∧ coversTrigger State.reset.cfg 0x44 .long = false ∧ coversTrigger State.reset.cfg 0x4C .byte = false
    ∧ (∃ t, step (bare [.busWrite 0x44 .long 0xFFFFFFFF]) = .next t) ∧ ∃ t, step (bare [.busRead 0x48 .long]) = .next t :=
  ⟨⟨_, rfl, by decide⟩, by decide, by decide, by decide, by decide, by decide, by decide, ⟨_, rfl⟩, _, rfl⟩
theorem witness_LeadOutIsEnteredByTicks :
    (∃ t, step (ready [.pollTick] (at_ .playing 2 5000)) = .next t ∧ t.play.status = .leadOut)
    ∧ (∃ t, step (ready [.pollTick] (at_ .readingToc 2 9000)) = .next t ∧ t.play.status = .leadOut)
    ∧ (∃ t, step (ready [.pollTick] (at_ .seeking 2 9000)) = .next t ∧ t.play.status = .leadOut) :=
  ⟨⟨_, rfl, by decide⟩, ⟨_, rfl, by decide⟩, ⟨_, rfl, by decide⟩⟩
theorem witness_CommandFrame : ∃ t, exec (.requestTstart 0 3) (stateP 0) = .next t := ⟨_, rfl⟩
theorem witness_WhichCommandsKeepThePlaybackState : (∃ t, exec .driveStatus (stateP 0xB000000004) = .next t)
    ∧ ∃ t, exec .pause (stateP 0) = .next t := ⟨⟨_, rfl⟩, ⟨_, rfl⟩⟩
theorem witness_PauseAndTrackSkipPause : Config.default.wf = true ∧ listed.wf = true ∧ validate (packetOfNat 0x6000000009) = true
    ∧ (packetOfNat 0x6000000009).n0 = Config.default.cmdCode .pause ∧ validate (packetOfNat 0x500000000A) = true
    ∧ (packetOfNat 0x500000000A).n0 = listed.cmdCode .pause ∧ validate (packetOfNat 0xA000000005) = true
    ∧ (packetOfNat 0xA000000005).n0 = Config.default.cmdCode .trackSkip := by decide
theorem witness_UnsupportedCommandsRefreshTheStatus : ∃ a, Instr.requestUnassigned8F 8 = .requestUnassigned8F a := ⟨8, rfl⟩
/-- The latency on both sides of 3, and a selector of each kind. -/
theorem witness_DriveStatusRepeatsTheSelectedReport :
    (ready [] ⟨.seeking, 1, 0, 0, 4, .playing, true⟩).play.latency = 4
    ∧ (ready [] ⟨.seeking, 1, 0, 0, 3, .playing, true⟩).play.latency ≤ 3
    ∧ [0xB000000004, 0x4100020143, 0x4200000000, 0x430108500A, 0x2E00000000, 0x2F0000000E].map
        (fun b => (stateP b).stat.n1.toNat) = [0, 1, 2, 3, 14, 15]
    ∧ [Config.default.reqCode .absoluteTime, Config.default.reqCode .relativeTime, Config.default.reqCode .trackInformation]
        = [0, 1, 2] ∧ (stateP 0).cfg.wf = true ∧ -150 ≤ (stateP 0).play.sector := by decide
theorem witness_AbsoluteTimeReadsBackAsTheSector :
    (ready [] (at_ .paused 0 (-151))).play.sector < -150
    ∧ ((0 : Nat) : Int) = (ready [] (at_ .paused 0 (-150))).play.sector + 150
    ∧ (ready [] (at_ .paused 0 449849)).play.sector < 449850
    ∧ 449850 ≤ (ready [] (at_ .paused 0 449850)).play.sector := by decide
/-- R123: ten seconds are the digits 1 and 0 (sector 600, State P's status and data flag). -/
theorem test_requestAbs_ten_seconds :
    bank (send 0x200000000D { stateP 0xB000000004 with play := ⟨.paused, 1, 600, 0, 0, .stopped, true⟩ }) = 0x4000100046 := by
  decide
theorem witness_RelativeTimeIsTheDistanceFromTheTrackStart :
    (curEntry stateA).map (·.startSector) = some 2000 ∧ curEntry (ready [] (at_ .leadOut 0xAA 0)) = none
    ∧ curEntry (ready [] (at_ .paused 0 449999)) = none
    ∧ ((ready [] (at_ .paused 0 449999)).play.sector - (0 : Nat)).natAbs < 450000 := by decide
theorem witness_TrackNumberReply : (ready [] (at_ .leadOut 0xAA 0)).play.track = leadoutNumber State.reset.cfg
    ∧ (ready [] (at_ .paused 99 0)).play.track ≠ leadoutNumber State.reset.cfg
    ∧ (ready [] (at_ .paused 99 0)).play.track ≤ 99 := by decide
theorem witness_DiscLengthReadsBackAsTheEndSector : (stateP 0).disc.totalEnd < 449850 := by decide
theorem witness_TrackStartReply : (stateP 0).disc.ok = true ∧ 1 ≤ pairValue 0 1
    ∧ ((stateP 0).disc.table[pairValue 0 1 - 1]?).map (fun e => (e.type, e.startSector)) = some (.data, 0)
    ∧ ((stateP 0).disc.table[pairValue 0 2 - 1]?).map (fun e => (e.type, e.startSector)) = some (.audio, 2000)
    ∧ (stateP 0).cfg.tstFlagData = 0x8 := by decide
theorem witness_MissingTrackStillAnswers : pairValue 0 0 = 0 ∧ (stateP 0).disc.numTracks < pairValue 0 3
    ∧ State.reset.disc.numTracks < pairValue 0 1 := by decide
theorem witness_ErrorReportIsAllZero : Config.default.wf = true ∧ falling.wf = true
    ∧ validate (packetOfNat 0x2006000007) = true ∧ (packetOfNat 0x2006000007).n0 = Config.default.cmdCode .request
    ∧ (packetOfNat 0x2006000007).n3 = Config.default.reqCode .errorInformation
    ∧ validate (packetOfNat 0x200200000B) = true ∧ (packetOfNat 0x200200000B).n0 = falling.cmdCode .request
    ∧ (packetOfNat 0x200200000B).n3 = falling.reqCode .errorInformation := by decide
/-- A seek to 00:00:00 from sector 151, with and without latency pending. -/
theorem witness_SeekResults :
    (-150 : Int) = (((10 * (0 : Nib).toNat + (0 : Nib).toNat) * 60 + (10 * (0 : Nib).toNat + (0 : Nib).toNat)) * 75
      + (10 * (0 : Nib).toNat + (0 : Nib).toNat) : Nat) - 150
    ∧ 11 = (if (stateP 0).play.latency = 0 then (stateP 0).cfg.seekBase else (stateP 0).play.latency)
      + (-150 - (stateP 0).play.sector).natAbs * (stateP 0).cfg.seekNum / (stateP 0).cfg.seekDen := by decide
theorem witness_SeekLatencyLaws : ((0 : Int) - 0).natAbs ≤ ((2250 : Int) - 0).natAbs ∧ 0 < Config.default.seekBase
    ∧ (-150 : Int) ≤ -150 ∧ (754890 : Int) ≤ 754890 ∧ seekDist .default (-150) 754890 = 335 := by decide
theorem witness_TimeCodeRoundTrip : 99 < 100 ∧ 59 < 60 ∧ 74 < 75 ∧ (-150 : Int) ≤ -150 ∧ (-151 : Int) < -150 := by decide
theorem witness_LookupFindsTheTrack : (stateP 0).disc.ok = true ∧ (stateP 0).disc.present = true
    ∧ (stateP 0).disc.table.map (fun e => (e.startSector, e.endSector)) = [(0, 2000), (2000, 5000)]
    ∧ Disc.none.ok = true ∧ Disc.none.present = false := by decide
/-- The boundary sectors: the inclusive reading, then the exclusive one (R126, R367). -/
theorem witness_LookupFindsTheTrack_boundaries :
    [(-1 : Int), 0, 1999, 2000, 2001, 5000, 5001].map (fun n => (trackForSector (stateP 0) n).map (·.number))
      = [none, some 1, some 1, some 1, some 2, some 2, none]
    ∧ [(-1 : Int), 0, 1999, 2000, 2001, 4999, 5000].map (fun n => (trackForSector
        { stateP 0 with cfg := { Config.default with trackEndInclusive := false } } n).map (·.number))
      = [none, some 1, some 1, some 2, some 2, some 2, none] := by decide
/-- Tracks 0 to 3 and the sentinel on a disc of two tracks. -/
theorem witness_LookupFindsTheTrack_current :
    [0, 1, 2, 3, 0xAA].map (fun n => (curEntry (ready [] (at_ .paused n 0))).map (·.number))
      = [none, some 1, some 2, none, none] := by decide
theorem witness_DisabledPollTickChangesNothing : (bare [.pollTick]).control.getLsbD 2 = false
    ∧ { bare [.pollTick] with control := 4 }.control.getLsbD 2 = true
    ∧ { bare [.pollTick] with control := 4 }.disc.present = false := by decide
theorem witness_StoppedTickStartsTheTocRead : (ready [.pollTick] (at_ .stopped 0 0)).control.getLsbD 2 = true
    ∧ (ready [.pollTick] (at_ .stopped 0 0)).disc.present = true ∧ (∃ t, exec .stop (stateP 0) = .next t)
    ∧ ∃ t, step (bare [.insertDisc (.image .binCue discA)]) = .next t ∧ t.outputs = [.insertOk] :=
  ⟨by decide, by decide, ⟨_, rfl⟩, _, rfl, by decide⟩
theorem witness_IdleStatusesIgnoreTheTick : (ready [.pollTick] (at_ .checksumError 1 0)).play.status ≠ .playing
    ∧ (ready [.pollTick] (at_ .checksumError 1 0)).control.getLsbD 2 = true := by decide
/-- Below sector 0, inside the data track, at the end of the disc; without a current track too. -/
theorem witness_PlayingDataAdvancesOneSector : (stateP 0).disc.ok = true
    ∧ curEntry (ready [.pollTick] (at_ .playing 0 (-2))) = none
    ∧ (curEntry (ready [.pollTick] (at_ .playing 1 1998))).map (·.type) = some .data
    ∧ (trackForSector (ready [.pollTick] (at_ .playing 1 2000)) 2001).map (·.number) = some 2
    ∧ ((stateP 0).disc.totalEnd : Int) ≤ (ready [.pollTick] (at_ .playing 1 4999)).play.sector + 1 := by decide
theorem witness_PlayingAudioWaitsForTheAudioTick :
    (curEntry (ready [.pollTick] (at_ .playing 2 5000))).map (·.type) = some .audio := by decide
/-- The TOC read's first, second-last and last tick. -/
theorem witness_TocReadTakesItsTicks :
    (max 1 (151 - (ready [] (at_ .readingToc 0 150)).play.sector)).toNat = 1
    ∧ (max 1 (151 - (ready [] (at_ .readingToc 0 0)).play.sector)).toNat = 151
    ∧ (max 1 (151 - (ready [] (at_ .readingToc 0 5000)).play.sector)).toNat = 1
    ∧ (ready [.pollTick] (at_ .readingToc 0 150)).inputs = List.replicate 1 .pollTick ++ []
    ∧ trackForSector (ready [] (at_ .readingToc 0 5000)) 5001 = none ∧ (ready [] (at_ .readingToc 0 150)).cfg.dmBit < 16
    ∧ (trackForSector (ready [] (at_ .readingToc 0 2100)) 2101).map (fun e => (e.number, e.type)) = some (2, .audio)
    ∧ (trackForSector (ready [] (at_ .readingToc 0 150)) 151).map (·.number) = some 1 := by decide
/-- R263: the last tick of the TOC read keeps an offset that stood at the sector size (log 44), and emits its two
signals. -/
theorem test_poll_toc_keeps_offset :
    (feed .pollTick (ready [] ⟨.readingToc, 0, 150, 2352, 7, .paused, false⟩)).play = ⟨.paused, 1, 151, 2352, 7, .paused, true⟩
    ∧ (feed .pollTick (ready [] ⟨.readingToc, 0, 150, 2352, 7, .paused, false⟩)).outputs = [.cdcSector 0, .irq] := by decide
theorem witness_SeekCompletesAfterItsLatency :
    (ready [.pollTick, .pollTick] ⟨.seeking, 1, -1, 0, 2, .paused, true⟩).inputs
      = List.replicate (ready [] ⟨.seeking, 1, -1, 0, 2, .paused, true⟩).play.latency .pollTick ++ []
    ∧ trackForSector (ready [] (at_ .seeking 1 (-1))) (-1) = none
    ∧ trackForSector (ready [] (at_ .seeking 1 8850)) 8850 = none
    ∧ (trackForSector (ready [] (at_ .seeking 1 5000)) 5000).map (fun e => (e.number, e.type)) = some (2, .audio)
    ∧ (trackForSector (ready [] (at_ .seeking 2 2000)) 2000).map (fun e => (e.number, e.type)) = some (1, .data)
    ∧ (ready [] (at_ .seeking 1 5000)).cfg.dmBit < 16 := by decide
theorem witness_SilentAudioTickChangesNothing : (ready [.audioTick .image] (at_ .paused 2 2001)).play.status ≠ .playing
    ∧ curEntry (ready [.audioTick .image] (at_ .playing 0 0)) = none
    ∧ (curEntry (ready [.audioTick .image] (at_ .playing 1 0))).map (·.type) = some .data := by decide
/-- The first sample of track 2's second sector, and the last four bytes of the track. -/
theorem witness_AudioTickEmitsTheSamplesAtItsPosition :
    (curEntry stateA).map (fun e => (e.type, e.sectorSize, e.startSector, e.lenBytes)) = some (.audio, 2352, 2000, 7056000)
    ∧ (2352 : Int) = 2352 * (stateA.play.sector - 2000) + stateA.play.sampleOffset
    ∧ (7055996 : Int) = 2352 * (4999 - 2000) + 2348 ∧ 7055996 + 4 ≤ 7056000 ∧ 0 + 4 < 2352 := by decide
/-- Silence below the track's first sector and past its last whatever the byte source answers; other bytes inside it. -/
theorem witness_AudioTickEmitsTheSamplesAtItsPosition_bounds :
    (1999 : Int) < 2000 ∧ (7056000 : Int) < (2352 * (5000 - 2000) + 0) + 4
    ∧ [(1999, TrackIo.supplied 1 2 3 4), (5000, .supplied 1 2 3 4), (2001, .failure), (2001, .supplied 0x34 0x12 0xFE 0xFF)].map
        (fun x => (feed (.audioTick x.2) (ready [] (at_ .playing 2 x.1))).outputs)
      = [[.sample 0 0], [.sample 0 0], [.sample 0 0], [.sample 4660 (-2)]] := by decide
theorem witness_AudioSectorTakes588Ticks :
    (curEntry stateA).map (fun e => (e.type, e.sectorSize)) = some (.audio, 2352)
    ∧ (trackForSector stateA (stateA.play.sector + 1)).map (·.number) = some 2 ∧ stateA.play.sampleOffset = 0
    ∧ (List.replicate 588 TrackIo.failure).length = 588 := ⟨by decide, by decide, by decide, List.length_replicate⟩
/-- Two audio tracks: from the end sector of the first the next sector is on the second, and `DM` is asked for. -/
theorem witness_AudioSectorTakes588Ticks_crossing :
    (curEntry { ready [] (at_ .playing 1 150) with disc := loadDisc .binCue [⟨.audio, 352800, []⟩, ⟨.audio, 352800, []⟩] }).map
        (fun e => (e.type, e.sectorSize)) = some (.audio, 2352)
    ∧ (trackForSector { ready [] (at_ .playing 1 150) with disc := loadDisc .binCue [⟨.audio, 352800, []⟩, ⟨.audio, 352800, []⟩] }
        151).map (fun e => (e.number, e.type)) = some (2, .audio) := by decide
theorem witness_AudioTickEntersLeadOutPastTheLastTrack :
    (curEntry (ready [.audioTick .image] ⟨.playing, 2, 5000, 2348, 0, .stopped, true⟩)).map (fun e => (e.type, e.sectorSize))
      = some (.audio, 2352)
    ∧ 2352 ≤ 2348 + 4
    ∧ trackForSector (ready [.audioTick .image] ⟨.playing, 2, 5000, 2348, 0, .stopped, true⟩) 5001 = none := by decide
theorem witness_CommandNibbleReadsBack : ∃ t, writeByte (offCmd0 State.reset.cfg + (8 : Fin 10)) 0xF7 State.reset = .next t :=
  ⟨_, rfl⟩
theorem witness_WideWritesAreSequences : 0x4A % 2 = 0 := by decide
theorem witness_WritesOutsideTheCommandBank : State.reset.cfg.wf = true ∧ State.reset.cfg.offFader = 0x34
    ∧ offStat0 State.reset.cfg + 9 = 0x41 ∧ ¬ (State.reset.cfg.offComm0 ≤ 0x4C ∧ 0x4C < State.reset.cfg.offComm0 + 20) := by
  decide
theorem witness_ReadsReturnTheRegisters : (bare [.busRead 0x38 .long]).inputs = .busRead 0x38 .long :: [] ∧ 0x38 % 2 = 0
    ∧ (bare [.busRead 0x41 .byte]).inputs = .busRead 0x41 .byte :: [] ∧ State.reset.cfg.wf = true := by decide
/-- The shortest acceptable track, an ISO image that ends in part of a sector, and images of each unacceptable kind. -/
theorem witness_InsertDiscLoadsOrFails : acceptable .binCue [⟨.data, 150 * 2352, []⟩] = true
    ∧ acceptable .iso [⟨.data, 2353, []⟩] = true ∧ acceptable .binCue [⟨.data, 150 * 2352 - 1, []⟩] = false
    ∧ acceptable .unknown [⟨.data, 150 * 2352, []⟩] = false ∧ acceptable .iso [] = false
    ∧ (bare [.insertDisc .loadError]).disc.present = false ∧ (stateP 0).disc.present = true := by decide
theorem acceptable_isoTracks (n : Nat) :
    acceptable .iso (List.replicate n ⟨.data, 2352, []⟩) = (decide (1 ≤ n) && decide (n < 256)) := by
  simp [acceptable, countable, wholeSectors, sectorSize]
/-- The most tracks an image can have, and one more. -/
theorem witness_InsertDiscLoadsOrFails_count :
    acceptable .iso (List.replicate 255 ⟨.data, 2352, []⟩) = true
    ∧ acceptable .iso (List.replicate 256 ⟨.data, 2352, []⟩) = false := by
  rw [acceptable_isoTracks, acceptable_isoTracks]; decide
/-- The bytes of a loaded track: named twice, named once, not named, named beyond the length. -/
theorem witness_InsertDiscLoadsOrFails_bytes :
    acceptable .iso [⟨.data, 10, [(3, 0x11), (3, 0x22), (9, 0x33), (10, 0x44)]⟩] = true
    ∧ ((feed (.insertDisc (.image .iso [⟨.data, 10, [(3, 0x11), (3, 0x22), (9, 0x33), (10, 0x44)]⟩])) State.reset).disc.table.map
        (fun e => [3, 4, 9, 10].map (Memory.read e.data))) = [[0x11, 0, 0x33, 0]] := by decide
theorem witness_EjectLeavesNoDisc : (bare [.eject]).inputs = .eject :: [] ∧ (ready [.eject] (at_ .playing 1 5)).inputs = .eject :: [] := by
  decide

end Sys2Proof.Tests
end

section
/-!
PROOFS. 00_scope.md: what an event does depends on the block alone (R3), and which events write the parameters, the disc
state and the command bank (R9, R10, R25, R41).
-/
namespace Sys2Proof.Machine

/-! ### An event and what stands outside the block -/

theorem busWrite_with (q : List Event) (off : Nat) (n : Size) (v : Long) (s : State) :
    busWrite off n v (withInputs q s) = outcomeWith q (busWrite off n v s) := by
  unfold busWrite
  split
  · rfl
  · exact writeBytes_with ..

theorem busRead_with (q : List Event) (off : Nat) (n : Size) (s : State) :
    busRead off n (withInputs q s) = outcomeWith q (busRead off n s) := by
  unfold busRead
  split <;> rfl

theorem insertDisc_with (q : List Event) (p : DiscPayload) (s : State) :
    insertDisc p (withInputs q s) = outcomeWith q (insertDisc p s) := by
  unfold insertDisc
  rw [show (withInputs q s).disc = s.disc from rfl]
  split
  · rfl
  · cases p with
    | image k ts =>
      dsimp only
      cases acceptable k ts <;> rfl
    | loadError => rfl

/-- No event reads what waits behind it (R3). -/
theorem runEvent_with (q : List Event) (e : Event) (s : State) :
    runEvent e (withInputs q s) = outcomeWith q (runEvent e s) := by
  cases e with
  | busWrite off n v => exact busWrite_with ..
  | busRead off n => exact busRead_with ..
  | pollTick => exact congrArg _ (pollTick_with q s)
  | audioTick io => exact congrArg _ (audioEvent_with q io s)
  | insertDisc p => exact insertDisc_with ..
  | eject | saveState | restoreState _ | reset => rfl

/-- An event takes nothing off the queue: the invariance under other queues, at the queue that waits. -/
theorem runEvent_inputs {e : Event} {s t : State} (h : runEvent e s = .next t) : t.inputs = s.inputs := by
  have hw : runEvent e s = outcomeWith s.inputs (runEvent e s) := runEvent_with s.inputs e s
  rw [h, outcomeWith_next] at hw
  injection hw with ht
  exact (congrArg State.inputs ht).trans rfl

/-- States that hold the same block differ, once the event is taken, in what waits behind it alone. -/
theorem sameBlock.takeEvent_eq {s t : State} (h : sameBlock s t) (q r : List Event) :
    takeEvent r t = withInputs r (takeEvent q s) := by
  obtain ⟨hcmd, hstat, hcontrol, hplay, hdisc, hcfg, hdraws⟩ := h
  simp only [takeEvent, withInputs, hcmd, hstat, hcontrol, hplay, hdisc, hcfg, hdraws]

theorem sameBlock_withInputs (q : List Event) (s : State) : sameBlock s (withInputs q s) :=
  ⟨rfl, rfl, rfl, rfl, rfl, rfl, rfl⟩

/-- Settles O15: the second state is the first with another queue, which no event reads. -/
theorem stepDependsOnTheBlockAlone : Obligations.StepDependsOnTheBlockAlone := by
  intro s t e q r hst hs ht
  rw [step_event hs, step_event ht, hst.takeEvent_eq q r, runEvent_with]
  cases hrun : runEvent e (takeEvent q s) with
  | next u => exact .inl ⟨u, withInputs r u, rfl, rfl, sameBlock_withInputs r u, rfl, runEvent_inputs hrun, rfl⟩
  | fault a => cases a
  | refused a => exact .inr ⟨a, rfl, rfl⟩

/-! ### Who writes the parameters, the disc state and the command bank -/

theorem busRead_next {off : Nat} {n : Size} {s t : State} (h : busRead off n s = .next t) :
    t = emit (.readData (busData s off n)) s := by
  unfold busRead at h
  split at h <;> cases h
  rfl

/-- An insertion that is not refused loads the disc or leaves all but the signal (R345, R346). -/
theorem insertDisc_next {p : DiscPayload} {s t : State} (h : insertDisc p s = .next t) :
    (∃ k ts, t = insertOk k ts s) ∨ t = insertFailed s := by
  obtain ⟨-, e⟩ | ⟨-, ⟨k, ts, -, -, e⟩ | e⟩ := insertDisc_cases p s <;> rw [e] at h <;> cases h
  · exact .inl ⟨k, ts, rfl⟩
  · exact .inr rfl

theorem insertDisc_cfg {p : DiscPayload} {s t : State} (h : insertDisc p s = .next t) : t.cfg = s.cfg := by
  obtain ⟨_, _, rfl⟩ | rfl := insertDisc_next h <;> rfl

/-- The register file is not touched (R345). -/
theorem insertDisc_cmd {p : DiscPayload} {s t : State} (h : insertDisc p s = .next t) : t.cmd = s.cmd := by
  obtain ⟨_, _, rfl⟩ | rfl := insertDisc_next h <;> rfl

/-- No event writes the parameters (R9, R10). -/
theorem runEvent_cfg {e : Event} {s t : State} (h : runEvent e s = .next t) : t.cfg = s.cfg := by
  cases e with
  | busWrite off n v =>
    obtain ⟨hcfg, -⟩ := (busWrite_next h).2.facts
    exact hcfg
  | busRead off n => rw [busRead_next h, emit_cfg]
  | insertDisc p => exact insertDisc_cfg h
  | pollTick => cases h; exact pollTick_cfg s
  | audioTick io => cases h; exact audioEvent_cfg io s
  | eject | saveState | restoreState _ | reset => cases h; rfl

/-- The disc state is written by disc events and Reset (R41). -/
theorem runEvent_disc {e : Event} {s t : State} (h : runEvent e s = .next t) (hi : ∀ p, e ≠ .insertDisc p)
    (hj : e ≠ .eject) (hr : e ≠ .reset) : t.disc = s.disc := by
  cases e with
  | busWrite off n v =>
    obtain ⟨-, hdisc, -⟩ := (busWrite_next h).2.facts
    exact hdisc
  | busRead off n => rw [busRead_next h, emit_disc]
  | pollTick => cases h; exact pollTick_disc s
  | audioTick io => cases h; exact audioEvent_disc io s
  | saveState | restoreState _ => cases h; rfl
  | insertDisc p => exact absurd rfl (hi p)
  | eject => exact absurd rfl hj
  | reset => exact absurd rfl hr

/-- The command bank is written by the host, a restore and Reset (R25). -/
theorem runEvent_cmd {e : Event} {s t : State} (h : runEvent e s = .next t) (hw : ∀ off n v, e ≠ .busWrite off n v)
    (hv : ∀ v, e ≠ .restoreState v) (hr : e ≠ .reset) : t.cmd = s.cmd := by
  cases e with
  | busRead off n => rw [busRead_next h, emit_cmd]
  | insertDisc p => exact insertDisc_cmd h
  | pollTick => cases h; exact pollTick_cmd s
  | audioTick io => cases h; exact audioEvent_cmd io s
  | eject | saveState => cases h; rfl
  | busWrite off n v => exact absurd rfl (hw off n v)
  | restoreState v => exact absurd rfl (hv v)
  | reset => exact absurd rfl hr

/-- Settles O17, by the frame of each event. -/
theorem whoWritesDiscAndCommandBank : Obligations.WhoWritesDiscAndCommandBank := by
  intro s t e rest hs h
  rw [step_event hs] at h
  exact ⟨(runEvent_cfg h).trans (takeEvent_cfg s rest),
    fun hi hj hr => (runEvent_disc h hi hj hr).trans (takeEvent_disc s rest),
    fun hw hv hr => (runEvent_cmd h hw hv hr).trans (takeEvent_cmd s rest)⟩

end Sys2Proof.Machine
end

section
/-!
PROOFS. 10_state.md: the status bank stays valid and only the trigger writes it (R25, R154, R158), the Track Table keeps
its rules (R41, R43), who writes `CONTROL` (R23, R67 to R69), and the values after reset (R47).
-/
namespace Sys2Proof.Machine

/-- A step that completes is idle, or runs the event that waits first. -/
theorem step_next_cases {s t : State} (h : step s = .next t) :
    (s.inputs = [] ∧ t = takeEvent [] s)
    ∨ ∃ e rest, s.inputs = e :: rest ∧ runEvent e (takeEvent rest s) = .next t := by
  cases hi : s.inputs with
  | nil => rw [step_idle hi] at h; cases h; exact .inl ⟨rfl, rfl⟩
  | cons e rest => exact .inr ⟨e, rest, rfl, step_event hi ▸ h⟩

/-! ### The status bank -/

/-- The register file is not touched (R345). -/
theorem insertDisc_stat {p : DiscPayload} {s t : State} (h : insertDisc p s = .next t) : t.stat = s.stat := by
  obtain ⟨_, _, rfl⟩ | rfl := insertDisc_next h <;> rfl

/-- The register file is not touched (R345). -/
theorem insertDisc_control {p : DiscPayload} {s t : State} (h : insertDisc p s = .next t) : t.control = s.control := by
  obtain ⟨_, _, rfl⟩ | rfl := insertDisc_next h <;> rfl

/-- A bus write that does not cover the trigger writes the command bank and `CONTROL` at most (R66 to R69, R154). -/
theorem busWrite_quiet {off : Nat} {n : Size} {v : Long} {s t : State} (h : busWrite off n v s = .next t)
    (hc : coversTrigger s.cfg off n = false) : QuietNext s t := by
  have hl : offTrigger s.cfg ∉ (busBytes off n v).map Prod.fst := by simp [mem_busBytes_trigger, hc]
  obtain ⟨-, hb⟩ := busWrite_next h
  cases hb with
  | quiet _ hq => exact hq
  | executed hl' => exact absurd hl' hl

/-- The status bank is written by a trigger write, a restore and Reset (R25). -/
theorem runEvent_stat {e : Event} {s t : State} (h : runEvent e s = .next t)
    (hw : ∀ off n v, e = .busWrite off n v → coversTrigger s.cfg off n = false)
    (hv : ∀ v, e ≠ .restoreState v) (hr : e ≠ .reset) : t.stat = s.stat := by
  cases e with
  | busWrite off n v =>
    obtain ⟨_, _, rfl, -⟩ := busWrite_quiet h (hw off n v rfl)
    rfl
  | busRead off n => rw [busRead_next h, emit_stat]
  | insertDisc p => exact insertDisc_stat h
  | pollTick => cases h; exact pollTick_stat s
  | audioTick io => cases h; exact audioEvent_stat io s
  | eject | saveState => cases h; rfl
  | restoreState v => exact absurd rfl (hv v)
  | reset => exact absurd rfl hr

/-- An event leaves the status bank, or a valid one, unless it restores an invalid one (R158, R351). -/
theorem runEvent_stat_or_validate {e : Event} {s t : State} (h : runEvent e s = .next t)
    (he : e.restoresValid = true) : t.stat = s.stat ∨ validate t.stat = true := by
  cases e with
  | busWrite off n v =>
    obtain ⟨-, -, -, -, -, hstat, -⟩ := (busWrite_next h).2.facts
    exact hstat
  | restoreState v => cases h; exact .inr he
  | reset => cases h; exact .inr (validate_sealBank _)
  | _ => exact .inl (runEvent_stat h (fun _ _ _ => nofun) (fun _ => nofun) nofun)

/-- Settles O9: an executed packet and Reset leave a sealed bank, and no other event but a restore writes it. -/
theorem statusChecksumKept : Obligations.StatusChecksumKept := by
  intro s t hs hv h
  obtain ⟨-, rfl⟩ | ⟨e, rest, hi, h⟩ := step_next_cases h
  · exact hs
  · obtain hstat | hstat := runEvent_stat_or_validate h (hv e rest hi)
    · rw [hstat, takeEvent_stat, hs]
    · exact hstat

/-- Settles O20: the frame of each event gives the first clause, that of a quiet bus write and a read the second. -/
theorem onlyTheTriggerWritesTheReply : Obligations.OnlyTheTriggerWritesTheReply := by
  intro s t e rest hi h
  rw [step_event hi] at h
  refine ⟨fun hne => ?_, ?_⟩
  · by_contra hno
    simp only [not_or, not_exists, not_and, Bool.not_eq_true] at hno
    obtain ⟨hw, hv, hr⟩ := hno
    exact hne ((runEvent_stat h hw hv hr).trans (takeEvent_stat s rest))
  · rintro (⟨off, n, v, rfl, hc⟩ | ⟨off, n, rfl⟩)
    · obtain ⟨_, _, rfl, -⟩ := busWrite_quiet h hc
      exact ⟨rfl, rfl, rfl, rfl⟩
    · rw [busRead_next h]
      exact ⟨rfl, rfl, rfl, rfl⟩

/-! ### The Track Table -/

theorem insertDisc_discOk {p : DiscPayload} {s t : State} (h : insertDisc p s = .next t) (hd : s.disc.ok = true) :
    t.disc.ok = true := by
  obtain ⟨-, e⟩ | ⟨-, ⟨k, ts, -, ha, e⟩ | e⟩ := insertDisc_cases p s <;> rw [e] at h <;> cases h
  · exact loadDisc_ok ha
  · exact hd

/-- No event leaves a disc state other than R41 and R43 say. -/
theorem runEvent_discOk {e : Event} {s t : State} (h : runEvent e s = .next t) (hd : s.disc.ok = true) :
    t.disc.ok = true := by
  cases e with
  | insertDisc p => exact insertDisc_discOk h hd
  | eject | reset => cases h; rfl
  | _ => rw [runEvent_disc h nofun nofun nofun, hd]

/-- Settles O10: an insertion builds a good table, a removal and Reset an empty one, and nothing else writes it. -/
theorem trackTableKept : Obligations.TrackTableKept := by
  intro s t hd h
  obtain ⟨-, rfl⟩ | ⟨e, rest, -, h⟩ := step_next_cases h
  · exact hd
  · exact runEvent_discOk h hd

/-! ### `CONTROL` -/

/-- A Polling Tick writes no bit of `CONTROL` but `DM` (R25). -/
theorem pollTick_getLsbD (s : State) {k : Nat} (h : k ≠ s.cfg.dmBit) :
    (pollTick s).control.getLsbD k = s.control.getLsbD k := by
  cases ht : ticking s with
  | false => rw [pollTick_disabled ht]
  | true => rw [pollTick_enabled ht]; exact pollArm_getLsbD { s with outputs := _ } h

/-- An Audio Tick writes no bit of `CONTROL` but `DM` (R25). -/
theorem audioTick_getLsbD (io : TrackIo) (s : State) {k : Nat} (h : k ≠ s.cfg.dmBit) :
    (audioTick io s).control.getLsbD k = s.control.getLsbD k := by
  unfold audioTick
  split
  · exact stepSample_getLsbD _ s h
  · rfl

/-- `CONTROL` is written by the host, the two ticks, a restore and Reset (R25). -/
theorem runEvent_control {e : Event} {s t : State} (h : runEvent e s = .next t)
    (hw : ∀ off n v, e ≠ .busWrite off n v) (hp : e ≠ .pollTick) (ha : ∀ io, e ≠ .audioTick io)
    (hv : ∀ v, e ≠ .restoreState v) (hr : e ≠ .reset) : t.control = s.control := by
  cases e with
  | busRead off n => rw [busRead_next h, emit_control]
  | insertDisc p => exact insertDisc_control h
  | eject | saveState => cases h; rfl
  | busWrite off n v => exact absurd rfl (hw off n v)
  | pollTick => exact absurd rfl hp
  | audioTick io => exact absurd rfl (ha io)
  | restoreState v => exact absurd rfl (hv v)
  | reset => exact absurd rfl hr

/-- `DM` is not written by the host (R67). -/
theorem runEvent_dm {e : Event} {s t : State} (h : runEvent e s = .next t) (hp : e ≠ .pollTick)
    (ha : ∀ io, e ≠ .audioTick io) (hv : ∀ v, e ≠ .restoreState v) (hr : e ≠ .reset) : dm t = dm s := by
  cases e with
  | busWrite off n v =>
    obtain ⟨-, -, -, -, hdm, -⟩ := (busWrite_next h).2.facts
    exact hdm
  | _ => rw [dm, dm, runEvent_cfg h, runEvent_control h nofun hp ha hv hr]

/-- The bits of `CONTROL` other than `DM` are not written by the ticks (R25, R129). -/
theorem runEvent_getLsbD {e : Event} {s t : State} (h : runEvent e s = .next t)
    (hw : ∀ off n v, e ≠ .busWrite off n v) (hv : ∀ v, e ≠ .restoreState v) (hr : e ≠ .reset)
    {k : Nat} (hk : k ≠ s.cfg.dmBit) : t.control.getLsbD k = s.control.getLsbD k := by
  cases e with
  | pollTick => cases h; exact pollTick_getLsbD s hk
  | audioTick io => cases h; rw [audioEvent_control, audioTick_getLsbD io s hk]
  | _ => rw [runEvent_control h hw nofun nofun hv hr]

/-- Settles O18, by the frame of each event. -/
theorem whoWritesControl : Obligations.WhoWritesControl := by
  intro s t e rest hi h
  rw [step_event hi] at h
  refine ⟨fun hp ha hv hr => (runEvent_dm h hp ha hv hr).trans rfl, fun hw hv hr k hk => ?_⟩
  rw [runEvent_getLsbD h hw hv hr hk, takeEvent_control]

/-! ### Host writes outside the command bank -/

/-- The bits of a word of two bytes. -/
theorem byteAppend_getLsbD (hi lo : Byte) (k : Nat) :
    (hi ++ lo : Half).getLsbD k = if k < 8 then lo.getLsbD k else hi.getLsbD (k - 8) :=
  BitVec.getLsbD_append

/-- A host write takes every bit but `DM` (R23, R67). -/
theorem hostControl_getLsbD {c : Config} (hc : c.dmBit < 16) (old new : Half) {k : Nat} (hk : k < 16) :
    (hostControl c old new).getLsbD k = if k = c.dmBit then old.getLsbD c.dmBit else new.getLsbD k := by
  simp only [hostControl, BitVec.getLsbD_or, BitVec.getLsbD_and, BitVec.getLsbD_not, controlMask_getLsbD hc, hk]
  by_cases h : k = c.dmBit <;> simp [h]

/-- A host write to the high byte of `CONTROL` (R67). -/
theorem hostControl_high_getLsbD {c : Config} (hc : c.dmBit < 16) (old : Half) (b : Byte) {k : Nat} (hk : k < 16) :
    (hostControl c old (b ++ old.extractLsb' 0 8)).getLsbD k
      = if k = c.dmBit then old.getLsbD c.dmBit else if 8 ≤ k then b.getLsbD (k - 8) else old.getLsbD k := by
  rw [hostControl_getLsbD hc _ _ hk]
  refine if_congr Iff.rfl rfl ((byteAppend_getLsbD _ _ k).trans ?_)
  split <;> rename_i h8
  · simp [h8]
  · simp [Nat.le_of_not_lt h8]

/-- A host write to the low byte of `CONTROL` (R67). -/
theorem hostControl_low_getLsbD {c : Config} (hc : c.dmBit < 16) (old : Half) (b : Byte) {k : Nat} (hk : k < 16) :
    (hostControl c old (old.extractLsb' 8 8 ++ b)).getLsbD k
      = if k = c.dmBit then old.getLsbD c.dmBit else if 8 ≤ k then old.getLsbD k else b.getLsbD k := by
  rw [hostControl_getLsbD hc _ _ hk]
  refine if_congr Iff.rfl rfl ((byteAppend_getLsbD _ _ k).trans ?_)
  split <;> rename_i h8
  · simp [h8]
  · have h16 : k - 8 < 8 := by omega
    simp [Nat.le_of_not_lt h8, h16]

/-- The host cannot write the status bank, FADER or what is not the block's (R68, R69). -/
theorem writeByte_eq_self {s : State} {a : Nat} (b : Byte)
    (h : (∃ i, target s.cfg a = .stat i) ∨ target s.cfg a = .fader ∨ target s.cfg a = .outside) :
    writeByte a b s = .next s := by
  unfold writeByte
  obtain ⟨i, h⟩ | h | h := h <;> rw [h]

theorem target_stat_of_mem {c : Config} {a : Nat} (h : offStat0 c ≤ a ∧ a < offStat0 c + 10) :
    ∃ i, target c a = .stat i := by
  refine ⟨⟨a - offStat0 c, by omega⟩, ?_⟩
  rw [← target_stat]
  exact congrArg (target c) (by dsimp only; omega)

/-- Settles O57: the map says what stands at each offset, and `hostControl` which bits a write takes. -/
theorem writesOutsideTheCommandBank : Obligations.WritesOutsideTheCommandBank := by
  intro s b hc
  obtain ⟨-, -, -, hdm⟩ := Config.wf_window hc
  refine ⟨⟨_, ?_, fun k hk => hostControl_high_getLsbD hdm s.control b hk⟩,
    ⟨_, ?_, fun k hk => hostControl_low_getLsbD hdm s.control b hk⟩, fun a ha => writeByte_eq_self b ?_⟩
  · rw [writeByte, target_controlHigh hc]; rfl
  · rw [writeByte, target_controlLow hc]; rfl
  · by_cases hf : a = s.cfg.offFader ∨ a = s.cfg.offFader + 1
    · exact .inr (.inl (target_fader hc hf))
    · obtain ⟨hf0, hf1⟩ := not_or.mp hf
      obtain h | h | h | ⟨h1, h2, hb⟩ := ha
      · exact absurd h hf0
      · exact absurd h hf1
      · exact .inl (target_stat_of_mem h)
      · exact .inr (.inr (target_outside h1 h2 hf0 hf1 hb))

/-! ### Reset -/

/-- Settles O12: the values by evaluation, the event by its record update. -/
theorem resetValues : Obligations.ResetValues := by
  refine ⟨rfl, rfl, rfl, rfl, by decide, by decide, by decide, by decide, fun s rest hi hc => ?_⟩
  calc step s = .next { State.reset with stat := powerOnStat s.cfg, cfg := s.cfg, inputs := rest, draws := s.draws } :=
        step_event hi
    _ = .next { State.reset with inputs := rest, draws := s.draws } :=
        congrArg (fun c => Host.Outcome.next
          { State.reset with stat := powerOnStat c, cfg := c, inputs := rest, draws := s.draws }) hc

end Sys2Proof.Machine
end

section
/-!
PROOFS. 10_state.md: the ranges of the playback state (R31, R34, R36, R40, R246, R290, R296) are kept by every step.
-/
namespace Sys2Proof.Machine

/-! ### What the two ticks can do to the playback state -/

/-- What an enabled Polling Tick is in each status (R262 to R268). -/
theorem pollArm_cases (s : State) :
    (s.play.status = .stopped ∧ pollArm s = tickStopped s)
    ∨ (s.play.status = .readingToc ∧ pollArm s = tickReadingToc s)
    ∨ (s.play.status = .seeking ∧ pollArm s = tickSeeking s)
    ∨ (s.play.status = .playing ∧ pollArm s = tickPlaying s)
    ∨ pollArm s = s := by
  unfold pollArm
  cases s.play.status <;> simp

/-- The playback state after an Audio Tick is as before, or as its read leaves it (R290, R291). -/
theorem audioTick_play (io : TrackIo) (s : State) :
    (audioTick io s).play = s.play
    ∨ ∃ e, audioEntry s = some e ∧ (audioTick io s).play = (stepSample e s).play := by
  unfold audioTick
  cases audioEntry s with
  | none => exact .inl rfl
  | some e => exact .inr ⟨e, rfl, rfl⟩

/-! ### The ranges of R40 -/

theorem Playback.ok_iff {c : Config} {d : Disc} {p : Playback} : p.ok c d = true ↔
    -150 ≤ p.sector ∧ p.sampleOffset % 4 = 0 ∧ trackInRange c d p.track = true ∧ statusProduced p.status = true
      ∧ statusPendable p.pendingStatus = true ∧ (p.status = .seeking → 1 ≤ p.latency) := by
  simp only [Playback.ok, Bool.and_eq_true, Bool.or_eq_true, decide_eq_true_eq, beq_iff_eq, bne_iff_ne, and_assoc,
    ← imp_iff_not_or]
  rfl

theorem State.ok_iff {s : State} :
    s.ok = true ↔ s.cfg.wf = true ∧ s.disc.ok = true ∧ s.play.ok s.cfg s.disc = true := by
  simp only [State.ok, Bool.and_eq_true, and_assoc]

/-- Where the parameters and the disc are as before, only the playback state is left to check. -/
theorem State.ok_of_play {s t : State} (hs : s.ok = true) (hc : t.cfg = s.cfg) (hd : t.disc = s.disc)
    (hp : t.play.ok s.cfg s.disc = true) : t.ok = true := by
  obtain ⟨h1, h2, -⟩ := State.ok_iff.mp hs
  rw [State.ok_iff, hc, hd]
  exact ⟨h1, h2, hp⟩

theorem trackInRange_zero (c : Config) (d : Disc) : trackInRange c d 0 = true := by simp [trackInRange]

theorem trackInRange_leadout (c : Config) (d : Disc) : trackInRange c d (leadoutNumber c) = true := by
  simp [trackInRange]

theorem trackInRange_lookup {s : State} {n : Int} {e : TrackEntry} (hs : s.ok = true)
    (he : trackForSector s n = some e) : trackInRange s.cfg s.disc e.number = true := by
  obtain ⟨-, hd, -⟩ := State.ok_iff.mp hs
  simp [trackInRange, (trackForSector_number hd he).2]

/-- A status that a seek leaves to come is produced by the rules, and is not Seeking (R38). -/
theorem statusPendable_produced {st : Status} (h : statusPendable st = true) :
    statusProduced st = true ∧ st ≠ .seeking := by
  revert h
  cases st <;> decide

theorem Playback.defaults_ok (c : Config) (d : Disc) {st : Status} (h : statusProduced st = true)
    (hne : st ≠ .seeking) : (Playback.defaults st).ok c d = true :=
  Playback.ok_iff.mpr ⟨by simp [Playback.defaults], rfl, trackInRange_zero c d, h, rfl, fun e => absurd e hne⟩

theorem Playback.ok_withStatus {c : Config} {d : Disc} {p : Playback} {st : Status} (h : p.ok c d = true)
    (hst : statusProduced st = true) (hne : st ≠ .seeking) : { p with status := st }.ok c d = true := by
  obtain ⟨h1, h2, h3, -, h5, -⟩ := Playback.ok_iff.mp h
  exact Playback.ok_iff.mpr ⟨h1, h2, h3, hst, h5, fun e => absurd e hne⟩

theorem Playback.ok_withTrack {c : Config} {d : Disc} {p : Playback} {n : TrackNumber} (h : p.ok c d = true)
    (hn : trackInRange c d n = true) : { p with track := n }.ok c d = true := by
  obtain ⟨h1, h2, -, h4, h5, h6⟩ := Playback.ok_iff.mp h
  exact Playback.ok_iff.mpr ⟨h1, h2, hn, h4, h5, h6⟩

theorem Playback.ok_withSector {c : Config} {d : Disc} {p : Playback} {n : Int} (h : p.ok c d = true)
    (hn : -150 ≤ n) : { p with sector := n }.ok c d = true := by
  obtain ⟨-, h2, h3, h4, h5, h6⟩ := Playback.ok_iff.mp h
  exact Playback.ok_iff.mpr ⟨hn, h2, h3, h4, h5, h6⟩

theorem Playback.ok_withOffset {c : Config} {d : Disc} {p : Playback} {n : Nat} (h : p.ok c d = true)
    (hn : n % 4 = 0) : { p with sampleOffset := n }.ok c d = true := by
  obtain ⟨h1, -, h3, h4, h5, h6⟩ := Playback.ok_iff.mp h
  exact Playback.ok_iff.mpr ⟨h1, hn, h3, h4, h5, h6⟩

theorem seekLatency_pos {c : Config} (hc : 0 < c.seekBase) (pending dist : Nat) :
    1 ≤ seekLatency c pending dist := by
  unfold seekLatency
  split <;> omega

theorem Config.wf_seekBase {c : Config} (h : c.wf = true) : 0 < c.seekBase := by
  simp only [Config.wf, Bool.and_eq_true, decide_eq_true_eq] at h
  obtain ⟨⟨-, hbase⟩, -⟩ := h
  exact hbase

/-- A command keeps the ranges: a seek's target has a time code and its latency is at least the base (R246). -/
theorem CommandMove.ok {c : Config} {d : Disc} {p q : Playback} (hc : 0 < c.seekBase) (h : CommandMove c p q)
    (hp : p.ok c d = true) : q.ok c d = true := by
  cases h with
  | stay => exact hp
  | enter st hst =>
    obtain ⟨hprod, hne⟩ : statusProduced st = true ∧ st ≠ .seeking := by revert hst; cases st <;> decide
    exact Playback.ok_withStatus hp hprod hne
  | seek st n hst hn =>
    obtain ⟨-, -, h3, -, -, -⟩ := Playback.ok_iff.mp hp
    have hpend : statusPendable st = true := by revert hst; cases st <;> decide
    exact Playback.ok_iff.mpr ⟨hn, rfl, h3, rfl, hpend, fun _ => seekLatency_pos hc _ _⟩

theorem enterLeadOut_ok {s : State} (h : s.ok = true) : (enterLeadOut s).ok = true := by
  obtain ⟨-, -, hp⟩ := State.ok_iff.mp h
  exact State.ok_of_play h rfl rfl
    (Playback.ok_withTrack (Playback.ok_withStatus hp rfl (by decide)) (trackInRange_leadout _ _))

theorem setSector_succ_ok {s : State} (h : s.ok = true) : (setSector (s.play.sector + 1) s).ok = true := by
  obtain ⟨-, -, hp⟩ := State.ok_iff.mp h
  obtain ⟨h1, -⟩ := Playback.ok_iff.mp hp
  exact State.ok_of_play h rfl rfl (Playback.ok_withSector hp (by omega))

theorem setTrack_ok {s : State} {n : Int} {e : TrackEntry} (h : s.ok = true) (he : trackForSector s n = some e) :
    (setTrack e s).ok = true := by
  obtain ⟨-, -, hp⟩ := State.ok_iff.mp h
  refine State.ok_of_play h (setTrack_cfg e s) (setTrack_disc e s) ?_
  rw [setTrack_play]
  exact Playback.ok_withTrack hp (trackInRange_lookup h he)

theorem refreshTrack_ok {s : State} (h : s.ok = true) : (refreshTrack s).ok = true := by
  obtain ⟨-, -, hp⟩ := State.ok_iff.mp h
  unfold refreshTrack
  split
  · rename_i e he
    exact setTrack_ok h he
  · split
    · exact State.ok_of_play h rfl rfl (Playback.ok_withTrack hp (trackInRange_zero _ _))
    · exact enterLeadOut_ok h

theorem tickStopped_ok {s : State} (h : s.ok = true) : (tickStopped s).ok = true := by
  obtain ⟨-, -, hp⟩ := State.ok_iff.mp h
  obtain ⟨-, -, -, -, h5, -⟩ := Playback.ok_iff.mp hp
  exact State.ok_of_play h rfl rfl
    (Playback.ok_iff.mpr ⟨by simp [tickStopped], rfl, trackInRange_zero _ _, rfl, h5, by simp [tickStopped]⟩)

theorem finishToc_ok {s : State} (h : s.ok = true) : (finishToc s).ok = true := by
  obtain ⟨-, -, hp⟩ := State.ok_iff.mp h
  exact refreshTrack_ok (State.ok_of_play h rfl rfl (Playback.ok_withStatus hp rfl (by decide)))

theorem tickReadingToc_ok {s : State} (h : s.ok = true) : (tickReadingToc s).ok = true := by
  simp only [tickReadingToc]
  split
  · exact finishToc_ok (setSector_succ_ok h)
  · exact setSector_succ_ok h

/-- A seek ends in its pending status; until then a tick of latency is left (R246 (d), R264). -/
theorem tickSeeking_ok {s : State} (h : s.ok = true) : (tickSeeking s).ok = true := by
  obtain ⟨-, -, hp⟩ := State.ok_iff.mp h
  obtain ⟨h1, h2, h3, h4, h5, -⟩ := Playback.ok_iff.mp hp
  simp only [tickSeeking]
  split
  · obtain ⟨hprod, hne⟩ := statusPendable_produced h5
    exact refreshTrack_ok (State.ok_of_play h rfl rfl
      (Playback.ok_iff.mpr ⟨h1, h2, h3, hprod, h5, fun e => absurd e hne⟩))
  · rename_i hl
    exact State.ok_of_play h rfl rfl
      (Playback.ok_iff.mpr ⟨h1, h2, h3, h4, h5, fun _ => Nat.one_le_iff_ne_zero.mpr hl⟩)

theorem endTest_ok {s : State} (h : s.ok = true) : (endTest s).ok = true := by
  unfold endTest
  split
  · exact enterLeadOut_ok h
  · exact h

theorem tickPlaying_ok {s : State} (h : s.ok = true) : (tickPlaying s).ok = true := by
  unfold tickPlaying
  split
  · exact endTest_ok (refreshTrack_ok (setSector_succ_ok h))
  · exact endTest_ok h

theorem pollArm_ok {s : State} (h : s.ok = true) : (pollArm s).ok = true := by
  obtain ⟨-, e⟩ | ⟨-, e⟩ | ⟨-, e⟩ | ⟨-, e⟩ | e := pollArm_cases s <;> rw [e]
  · exact tickStopped_ok h
  · exact tickReadingToc_ok h
  · exact tickSeeking_ok h
  · exact tickPlaying_ok h
  · exact h

theorem pollTick_ok {s : State} (h : s.ok = true) : (pollTick s).ok = true := by
  cases ht : ticking s with
  | false => rw [pollTick_disabled ht]; exact h
  | true => rw [pollTick_enabled ht]; exact pollArm_ok h

theorem stepSample_ok (e : TrackEntry) {s : State} (h : s.ok = true) : (stepSample e s).ok = true := by
  obtain ⟨-, -, hp⟩ := State.ok_iff.mp h
  obtain ⟨h1, h2, h3, h4, h5, h6⟩ := Playback.ok_iff.mp hp
  have hsum : (s.play.sampleOffset + 4) % 4 = 0 := by omega
  have hsector : -150 ≤ s.play.sector + 1 := by omega
  refine State.ok_of_play h (stepSample_cfg e s) (stepSample_disc e s) ?_
  obtain ⟨-, hr⟩ | ⟨-, e2, he2, hr⟩ | ⟨-, -, hr⟩ := stepSample_play e s <;> rw [hr, Playback.ok_iff]
  · exact ⟨h1, hsum, h3, h4, h5, h6⟩
  · exact ⟨hsector, rfl, trackInRange_lookup h he2, h4, h5, h6⟩
  · exact ⟨h1, hsum, trackInRange_leadout _ _, rfl, h5, by simp⟩

theorem keepOffsetRange_ok (b : State) {t : State} (h : t.ok = true) : (keepOffsetRange b t).ok = true := by
  obtain ⟨-, -, hp⟩ := State.ok_iff.mp h
  obtain ⟨-, e⟩ | ⟨-, -, -, -, e⟩ := keepOffsetRange_cases b t <;> rw [e]
  · exact h
  · exact State.ok_of_play h rfl rfl (Playback.ok_withOffset hp rfl)

theorem audioTick_ok (io : TrackIo) {s : State} (h : s.ok = true) : (audioTick io s).ok = true := by
  obtain ⟨-, -, hp⟩ := State.ok_iff.mp h
  refine State.ok_of_play h (audioTick_cfg io s) (audioTick_disc io s) ?_
  obtain e | ⟨e, -, he⟩ := audioTick_play io s
  · rw [e]; exact hp
  · obtain ⟨-, -, hp'⟩ := State.ok_iff.mp (stepSample_ok e h)
    rwa [he, ← stepSample_cfg e s, ← stepSample_disc e s]

theorem setDisc_ok {s : State} {d : Disc} {st : Status} (h : s.ok = true) (hd : d.ok = true)
    (hst : statusProduced st = true) (hne : st ≠ .seeking) : (setDisc d st s).ok = true := by
  obtain ⟨hc, -, -⟩ := State.ok_iff.mp h
  exact State.ok_iff.mpr ⟨hc, hd, Playback.defaults_ok _ _ hst hne⟩

theorem insertDisc_ok {p : DiscPayload} {s t : State} (h : insertDisc p s = .next t) (hs : s.ok = true) :
    t.ok = true := by
  obtain ⟨-, e⟩ | ⟨-, ⟨k, ts, -, ha, e⟩ | e⟩ := insertDisc_cases p s <;> rw [e] at h <;> cases h
  · exact setDisc_ok (s := s) hs (loadDisc_ok ha) rfl (by decide)
  · exact hs

theorem busWrite_ok {off : Nat} {n : Size} {v : Long} {s t : State} (h : busWrite off n v s = .next t)
    (hs : s.ok = true) : t.ok = true := by
  obtain ⟨hwf, -, hp⟩ := State.ok_iff.mp hs
  obtain ⟨hcfg, hdisc, -, -, -, -, hplay⟩ := (busWrite_next h).2.facts
  refine State.ok_of_play hs hcfg hdisc ?_
  obtain hmove | hplay := hplay
  · exact hmove.ok (Config.wf_seekBase hwf) hp
  · rw [hplay]; exact Playback.ok_withStatus hp rfl (by decide)

/-- No event but a restore leaves the ranges (R40, R351). -/
theorem runEvent_ok {e : Event} {s t : State} (h : runEvent e s = .next t) (hs : s.ok = true)
    (he : e.restoresOk s.cfg s.disc = true) : t.ok = true := by
  cases e with
  | busWrite off n v => exact busWrite_ok h hs
  | busRead off n => rw [busRead_next h]; exact hs
  | pollTick => cases h; exact pollTick_ok hs
  | audioTick io => cases h; exact keepOffsetRange_ok s (audioTick_ok io hs)
  | insertDisc p => exact insertDisc_ok h hs
  | eject | reset => cases h; exact setDisc_ok hs rfl rfl (by decide)
  | saveState => cases h; exact hs
  | restoreState v => cases h; exact State.ok_of_play hs rfl rfl he

/-! ### Where `sampleOffset` can stand -/

theorem Playback.offsetOk_iff {c : Config} {d : Disc} {p : Playback} : p.offsetOk c d = true ↔
    p.sampleOffset % 4 = 0
      ∧ (p.sampleOffset < 2352
        ∨ (p.sampleOffset = 2352 ∧ (p.track = 0 ∨ p.track = leadoutNumber c ∨ 0 ≤ p.sector))
        ∨ (c.offsetBounded = false ∧ p.sampleOffset = 2356 ∧ p.track = leadoutNumber c ∧ p.status ≠ .seeking
          ∧ pastEnd c d p.sector = true)) := by
  simp only [Playback.offsetOk, Bool.and_eq_true, Bool.or_eq_true, decide_eq_true_eq, beq_iff_eq, bne_iff_ne,
    Bool.not_eq_true', and_assoc, or_assoc]
  rfl

/-- Within the sector any other field is free. -/
theorem Playback.offsetOk_of_lt {c : Config} {d : Disc} {p : Playback} (h : p.sampleOffset % 4 = 0)
    (hlt : p.sampleOffset < 2352) : p.offsetOk c d = true := Playback.offsetOk_iff.mpr ⟨h, .inl hlt⟩

/-- On the sentinel the offset can stand at the sector size. -/
theorem Playback.offsetOk_sentinel {c : Config} {d : Disc} {p : Playback} (ho : p.sampleOffset = 2352)
    (ht : p.track = leadoutNumber c) : p.offsetOk c d = true :=
  Playback.offsetOk_iff.mpr ⟨by rw [ho], .inr (.inl ⟨ho, .inr (.inl ht)⟩)⟩

theorem Playback.defaults_offsetOk (c : Config) (d : Disc) (st : Status) :
    (Playback.defaults st).offsetOk c d = true := Playback.offsetOk_of_lt rfl (show 0 < 2352 by decide)

/-- Beyond the sector size the state stands past the end of the disc, on the sentinel. -/
theorem Playback.offsetOk_beyond {c : Config} {d : Disc} {p : Playback} (h : p.offsetOk c d = true)
    (ho : 2352 < p.sampleOffset) :
    p.track = leadoutNumber c ∧ p.status ≠ .seeking ∧ pastEnd c d p.sector = true := by
  obtain ⟨-, hlt | ⟨heq, -⟩ | ⟨-, -, hrest⟩⟩ := Playback.offsetOk_iff.mp h
  · omega
  · omega
  · exact hrest

/-- The state has a good disc and its offset where `offsetOk` says. -/
def State.OffsetOk (s : State) : Prop := s.disc.ok = true ∧ s.play.offsetOk s.cfg s.disc = true

theorem State.OffsetOk.of_play {s t : State} (hs : s.OffsetOk) (hc : t.cfg = s.cfg) (hd : t.disc = s.disc)
    (hp : t.play.offsetOk s.cfg s.disc = true) : t.OffsetOk := by
  rw [State.OffsetOk, hc, hd]
  exact ⟨hs.1, hp⟩

/-- One sample past the sector size no later sector is on a track. -/
theorem State.OffsetOk.miss {s : State} (h : s.OffsetOk) (ho : 2352 < s.play.sampleOffset) {m : Int}
    (hm : s.play.sector < m) : trackForSector s m = none := by
  obtain ⟨hd, hp⟩ := h
  obtain ⟨-, -, hend⟩ := Playback.offsetOk_beyond hp ho
  exact trackForSector_pastEnd hd hend hm

theorem Playback.offsetOk_withStatus {c : Config} {d : Disc} {p : Playback} {st : Status} (h : p.offsetOk c d = true)
    (hst : st = .seeking → p.status = .seeking) : { p with status := st }.offsetOk c d = true := by
  obtain ⟨h4, hlt | hat | ⟨hb, ho, ht, hne, hend⟩⟩ := Playback.offsetOk_iff.mp h
  · exact Playback.offsetOk_of_lt h4 hlt
  · exact Playback.offsetOk_iff.mpr ⟨h4, .inr (.inl hat)⟩
  · exact Playback.offsetOk_iff.mpr ⟨h4, .inr (.inr ⟨hb, ho, ht, fun e => hne (hst e), hend⟩)⟩

theorem Playback.offsetOk_withSector {c : Config} {d : Disc} {p : Playback} {n : Int} (h : p.offsetOk c d = true)
    (hn : p.sector ≤ n) : { p with sector := n }.offsetOk c d = true := by
  obtain ⟨h4, hlt | ⟨ho, hpos⟩ | ⟨hb, ho, ht, hne, hend⟩⟩ := Playback.offsetOk_iff.mp h
  · exact Playback.offsetOk_of_lt h4 hlt
  · exact Playback.offsetOk_iff.mpr ⟨h4, .inr (.inl ⟨ho, hpos.imp_right (Or.imp_right fun h0 => h0.trans hn)⟩)⟩
  · exact Playback.offsetOk_iff.mpr ⟨h4, .inr (.inr ⟨hb, ho, ht, hne, pastEnd_mono hend hn⟩)⟩

theorem Playback.offsetOk_leadOut {c : Config} {d : Disc} {p : Playback} (h : p.offsetOk c d = true) :
    { p with status := .leadOut, track := leadoutNumber c }.offsetOk c d = true := by
  obtain ⟨h4, hlt | ⟨ho, -⟩ | ⟨hb, ho, -, -, hend⟩⟩ := Playback.offsetOk_iff.mp h
  · exact Playback.offsetOk_of_lt h4 hlt
  · exact Playback.offsetOk_iff.mpr ⟨h4, .inr (.inl ⟨ho, .inr (.inl rfl)⟩)⟩
  · exact Playback.offsetOk_iff.mpr ⟨h4, .inr (.inr ⟨hb, ho, rfl, by simp, hend⟩)⟩

theorem Playback.offsetOk_withTrack {c : Config} {d : Disc} {p : Playback} {n : TrackNumber}
    (h : p.offsetOk c d = true) (ho : p.sampleOffset ≤ 2352) (hn : n = 0 ∨ 0 ≤ p.sector) :
    { p with track := n }.offsetOk c d = true := by
  obtain ⟨h4, hlt | ⟨ho, -⟩ | ⟨-, ho', -⟩⟩ := Playback.offsetOk_iff.mp h
  · exact Playback.offsetOk_of_lt h4 hlt
  · exact Playback.offsetOk_iff.mpr ⟨h4, .inr (.inl ⟨ho, hn.imp_right .inr⟩)⟩
  · omega

theorem CommandMove.offsetOk {c : Config} {d : Disc} {p q : Playback} (h : CommandMove c p q)
    (hp : p.offsetOk c d = true) : q.offsetOk c d = true := by
  cases h with
  | stay => exact hp
  | enter st hst =>
    have hne : st ≠ .seeking := by revert hst; cases st <;> decide
    exact Playback.offsetOk_withStatus hp fun e => absurd e hne
  | seek st n => exact Playback.offsetOk_of_lt rfl (show 0 < 2352 by decide)

theorem pastEnd_iff {c : Config} {d : Disc} {n : Int} : pastEnd c d n = true ↔
    0 ≤ n ∧ (d.totalEnd : Int) ≤ if c.trackEndInclusive then n else n + 1 := by
  simp only [pastEnd, Bool.and_eq_true, decide_eq_true_eq]

theorem totalEnd_le_of_pastEnd {c : Config} {d : Disc} {n : Int} (h : pastEnd c d n = true) :
    (d.totalEnd : Int) ≤ n + 1 := by
  obtain ⟨-, hend⟩ := pastEnd_iff.mp h
  split at hend <;> omega

/-- A lookup that finds a track is of a sector from 0 up (R126). -/
theorem trackForSector_nonneg {s : State} {n : Int} {e : TrackEntry} (he : trackForSector s n = some e) : 0 ≤ n := by
  unfold trackForSector at he
  split at he
  · cases he
  · omega

/-- The track refresh keeps the offset's place, where no track is found past the end. -/
theorem refreshTrack_offsetOk {s : State} (h : s.OffsetOk)
    (hmiss : 2352 < s.play.sampleOffset → trackForSector s s.play.sector = none) : (refreshTrack s).OffsetOk := by
  have hp := h.2
  refine h.of_play (refreshTrack_cfg s) (refreshTrack_disc s) ?_
  obtain ⟨e, he, hr⟩ | ⟨-, hneg, hr⟩ | ⟨-, -, hr⟩ := refreshTrack_play s <;> rw [hr]
  · refine Playback.offsetOk_withTrack hp ?_ (.inr (trackForSector_nonneg he))
    by_contra hgt
    rw [hmiss (by omega)] at he
    cases he
  · refine Playback.offsetOk_withTrack hp ?_ (.inl rfl)
    by_contra hgt
    obtain ⟨-, -, hend⟩ := Playback.offsetOk_beyond hp (by omega)
    exact absurd (pastEnd_iff.mp hend).1 (by omega)
  · exact Playback.offsetOk_leadOut hp

theorem enterLeadOut_offsetOk {s : State} (h : s.OffsetOk) : (enterLeadOut s).OffsetOk :=
  h.of_play (t := enterLeadOut s) rfl rfl (Playback.offsetOk_leadOut (p := s.play) h.2)

theorem setSector_succ_offsetOk {s : State} (h : s.OffsetOk) : (setSector (s.play.sector + 1) s).OffsetOk :=
  h.of_play rfl rfl (Playback.offsetOk_withSector h.2 (by omega))

theorem tickReadingToc_offsetOk {s : State} (h : s.OffsetOk) : (tickReadingToc s).OffsetOk := by
  have hnext := setSector_succ_offsetOk h
  simp only [tickReadingToc]
  split
  · exact refreshTrack_offsetOk
      (hnext.of_play rfl rfl (Playback.offsetOk_withStatus (st := .paused) hnext.2 (by simp)))
      fun ho => h.miss ho (Int.lt_succ _)
  · exact hnext

theorem tickSeeking_offsetOk {s : State} (hs : s.play.status = .seeking) (h : s.OffsetOk) :
    (tickSeeking s).OffsetOk := by
  simp only [tickSeeking]
  split
  · refine refreshTrack_offsetOk (h.of_play rfl rfl (Playback.offsetOk_withStatus h.2 fun _ => hs)) fun ho => ?_
    obtain ⟨-, hne, -⟩ := Playback.offsetOk_beyond h.2 ho
    exact absurd hs hne
  · exact h

theorem endTest_offsetOk {s : State} (h : s.OffsetOk) : (endTest s).OffsetOk := by
  unfold endTest
  split
  · exact enterLeadOut_offsetOk h
  · exact h

theorem tickPlaying_offsetOk {s : State} (h : s.OffsetOk) : (tickPlaying s).OffsetOk := by
  unfold tickPlaying
  split
  · exact endTest_offsetOk (refreshTrack_offsetOk (setSector_succ_offsetOk h) fun ho => h.miss ho (Int.lt_succ _))
  · exact endTest_offsetOk h

theorem pollArm_offsetOk {s : State} (h : s.OffsetOk) : (pollArm s).OffsetOk := by
  obtain ⟨-, e⟩ | ⟨-, e⟩ | ⟨hs, e⟩ | ⟨-, e⟩ | e := pollArm_cases s <;> rw [e]
  · exact h.of_play rfl rfl (Playback.offsetOk_of_lt rfl (show 0 < 2352 by decide))
  · exact tickReadingToc_offsetOk h
  · exact tickSeeking_offsetOk hs h
  · exact tickPlaying_offsetOk h
  · exact h

theorem pollTick_offsetOk {s : State} (h : s.OffsetOk) : (pollTick s).OffsetOk := by
  cases ht : ticking s with
  | false => rw [pollTick_disabled ht]; exact h
  | true => rw [pollTick_enabled ht]; exact pollArm_offsetOk h

theorem TrackEntry.holds_iff {inclusive : Bool} {e : TrackEntry} {m : Int} : e.holds inclusive m = true ↔
    e.startSector ≤ m ∧ (m < e.endSector ∨ inclusive = true ∧ m = e.endSector) := by
  cases inclusive with
  | true => simp [TrackEntry.holds, Int.le_iff_lt_or_eq]
  | false => simp [TrackEntry.holds]

/-- The tracks of a good table leave no sector between its ends out (R43 (c), R126). -/
theorem tableFrom_covers {inclusive : Bool} {n start : Nat} {l : List TrackEntry} {m : Int}
    (h : tableFrom n start l = true) (hl : l ≠ []) (hm : (start : Int) ≤ m)
    (hend : m < lastEnd l ∨ inclusive = true ∧ m = lastEnd l) : ∃ e ∈ l, e.holds inclusive m = true := by
  induction l generalizing n start with
  | nil => exact absurd rfl hl
  | cons x l ih =>
    simp only [tableFrom, Bool.and_eq_true, beq_iff_eq] at h
    obtain ⟨⟨⟨⟨⟨-, -⟩, hstart⟩, -⟩, -⟩, hrest⟩ := h
    by_cases hx : m < x.endSector ∨ inclusive = true ∧ m = x.endSector
    · exact ⟨x, List.mem_cons_self, TrackEntry.holds_iff.mpr ⟨hstart ▸ hm, hx⟩⟩
    · cases l with
      | nil => exact absurd hend hx
      | cons y l =>
        have hlast : lastEnd (x :: y :: l) = lastEnd (y :: l) := by simp [lastEnd]
        obtain ⟨e, he, hh⟩ := ih hrest (List.cons_ne_nil y l) (by omega) (hlast ▸ hend)
        exact ⟨e, List.mem_cons_of_mem x he, hh⟩

/-- Where the next sector is on no track, the disc has ended (R126, R296). -/
theorem pastEnd_of_miss {s : State} {n : Int} (hd : s.disc.ok = true) (hp : s.disc.present = true) (hn : 0 ≤ n)
    (h : trackForSector s (n + 1) = none) : pastEnd s.cfg s.disc n = true := by
  obtain ⟨hlen, hpos, htab, htot, -⟩ := Disc.ok_present hd hp
  have hne : s.disc.table ≠ [] := List.ne_nil_of_length_pos (by omega)
  rw [trackForSector, if_neg (by omega), List.find?_eq_none] at h
  have hmiss : ¬ (n + 1 < lastEnd s.disc.table ∨ s.cfg.trackEndInclusive = true ∧ n + 1 = lastEnd s.disc.table) := by
    intro hend
    obtain ⟨e, he, hh⟩ := tableFrom_covers htab hne (by omega) hend
    exact h e he hh
  rw [pastEnd_iff, htot]
  obtain ⟨hlt, hat⟩ := not_or.mp hmiss
  refine ⟨hn, ?_⟩
  split
  · rename_i hi
    have hne' : n + 1 ≠ lastEnd s.disc.table := fun e => hat ⟨hi, e⟩
    omega
  · omega

/-- The current entry stands in the table at its number (R43 (a), R125). -/
theorem curEntry_some {s : State} {e : TrackEntry} (h : curEntry s = some e) :
    s.play.track ≠ leadoutNumber s.cfg ∧ (1 ≤ s.play.track.val ∧ s.play.track.val ≤ s.disc.numTracks)
      ∧ s.disc.table[s.play.track.val - 1]? = some e := by
  simpa only [curEntry, trackEntry, Option.ite_none_left_eq_some, Option.ite_none_right_eq_some] using h

/-- An Audio Tick reads from the current entry (R291). -/
theorem audioEntry_curEntry {s : State} {e : TrackEntry} (h : audioEntry s = some e) : curEntry s = some e := by
  unfold audioEntry at h
  split at h
  · exact (Option.filter_eq_some_iff.mp h).1
  · cases h

/-- A current entry is a track of a disc that is present (R41, R43). -/
theorem curEntry_onDisc {s : State} {e : TrackEntry} (hd : s.disc.ok = true) (h : curEntry s = some e) :
    s.disc.present = true ∧ s.play.track ≠ 0 ∧ e.sectorSize = 2352 := by
  obtain ⟨-, ⟨hfirst, hlast⟩, hentry⟩ := curEntry_some h
  cases hp : s.disc.present with
  | false =>
    rw [Disc.ok_absent hd hp] at hlast
    exact absurd (hfirst.trans hlast) (by decide)
  | true =>
    obtain ⟨-, -, htab, -, -⟩ := Disc.ok_present hd hp
    obtain ⟨-, hsize, -⟩ := tableFrom_getElem? htab hentry
    refine ⟨rfl, fun h0 => ?_, hsize⟩
    rw [h0] at hfirst
    exact absurd hfirst (by decide)

/-- A reading tick keeps the offset's place, or adds a sample at the sector size past the end of the disc. -/
theorem stepSample_offset {s : State} {e : TrackEntry} (h : s.OffsetOk) (he : audioEntry s = some e) :
    (stepSample e s).play.offsetOk s.cfg s.disc = true
    ∨ (s.play.sampleOffset = 2352 ∧ pastEnd s.cfg s.disc s.play.sector = true
      ∧ (stepSample e s).play
        = { s.play with status := .leadOut, track := leadoutNumber s.cfg, sampleOffset := 2356 }) := by
  obtain ⟨hd, hp⟩ := h
  have hcur := audioEntry_curEntry he
  obtain ⟨hneLead, -, -⟩ := curEntry_some hcur
  obtain ⟨hpres, hne0, hsize⟩ := curEntry_onDisc hd hcur
  obtain ⟨h4, hwhere⟩ := Playback.offsetOk_iff.mp hp
  have h4' : (s.play.sampleOffset + 4) % 4 = 0 := by omega
  obtain ⟨hlt, hr⟩ | ⟨-, e2, -, hr⟩ | ⟨hge, hmiss, hr⟩ := stepSample_play e s <;> rw [hr]
  · exact .inl (Playback.offsetOk_of_lt h4' (hsize ▸ hlt))
  · exact .inl (Playback.offsetOk_of_lt rfl (show 0 < 2352 by decide))
  · obtain hlt | ⟨ho, h0 | hlead | hpos⟩ | ⟨-, -, hlead, -⟩ := hwhere
    · exact .inl (Playback.offsetOk_sentinel (show s.play.sampleOffset + 4 = 2352 by omega) rfl)
    · exact absurd h0 hne0
    · exact absurd hlead hneLead
    · exact .inr ⟨ho, pastEnd_of_miss hd hpres hpos hmiss, by rw [ho]⟩
    · exact absurd hlead hneLead

/-- The range of R36 keeps the offset's place: it writes the sector size on the sentinel only. -/
theorem keepOffsetRange_offsetOk (b : State) {t : State} (h : t.OffsetOk) : (keepOffsetRange b t).OffsetOk := by
  obtain ⟨-, e⟩ | ⟨-, -, -, ho, e⟩ := keepOffsetRange_cases b t <;> rw [e]
  · exact h
  · obtain ⟨hlead, -, -⟩ := Playback.offsetOk_beyond h.2 (by omega)
    exact h.of_play rfl rfl (Playback.offsetOk_sentinel rfl hlead)

/-- Where a tick has added a sample at the sector size, the range of R36 takes it back or is not asked for. -/
theorem audioEvent_offsetOk (io : TrackIo) {s : State} (h : s.OffsetOk) : (audioEvent io s).OffsetOk := by
  have hkeep (ht : (audioTick io s).play.offsetOk s.cfg s.disc = true) : (audioEvent io s).OffsetOk :=
    keepOffsetRange_offsetOk s (h.of_play (audioTick_cfg io s) (audioTick_disc io s) ht)
  obtain e | ⟨e, he, hr⟩ := audioTick_play io s
  · exact hkeep (e ▸ h.2)
  · obtain hok | ⟨ho, hend, hs⟩ := stepSample_offset h he
    · exact hkeep (hr ▸ hok)
    · refine h.of_play (audioEvent_cfg io s) (audioEvent_disc io s) ?_
      rw [hs] at hr
      unfold audioEvent
      obtain ⟨hno, e⟩ | ⟨-, -, -, -, e⟩ := keepOffsetRange_cases s (audioTick io s) <;> rw [e]
      · have hb : s.cfg.offsetBounded = false := by simpa [ho, hr] using hno
        rw [hr]
        exact Playback.offsetOk_iff.mpr ⟨show 2356 % 4 = 0 by decide, .inr (.inr ⟨hb, rfl, rfl, by simp, hend⟩)⟩
      · rw [setSampleOffset_play, hr]
        exact Playback.offsetOk_sentinel rfl rfl

theorem insertDisc_offsetOk {p : DiscPayload} {s t : State} (h : insertDisc p s = .next t) (hs : s.OffsetOk) :
    t.OffsetOk := by
  obtain ⟨-, e⟩ | ⟨-, ⟨k, ts, -, ha, e⟩ | e⟩ := insertDisc_cases p s <;> rw [e] at h <;> cases h
  · exact ⟨loadDisc_ok ha, Playback.defaults_offsetOk _ _ _⟩
  · exact hs

theorem busWrite_offsetOk {off : Nat} {n : Size} {v : Long} {s t : State} (h : busWrite off n v s = .next t)
    (hs : s.OffsetOk) : t.OffsetOk := by
  obtain ⟨hcfg, hdisc, -, -, -, -, hplay⟩ := (busWrite_next h).2.facts
  refine hs.of_play hcfg hdisc ?_
  obtain hmove | hplay := hplay
  · exact hmove.offsetOk hs.2
  · rw [hplay]; exact Playback.offsetOk_withStatus hs.2 (by simp)

/-- No event but a restore moves the offset out of its place (R36, R351). -/
theorem runEvent_offsetOk {e : Event} {s t : State} (h : runEvent e s = .next t) (hs : s.OffsetOk)
    (he : e.restoresOffset s.cfg s.disc = true) : t.OffsetOk := by
  cases e with
  | busWrite off n v => exact busWrite_offsetOk h hs
  | busRead off n => rw [busRead_next h]; exact hs
  | pollTick => cases h; exact pollTick_offsetOk hs
  | audioTick io => cases h; exact audioEvent_offsetOk io hs
  | insertDisc p => exact insertDisc_offsetOk h hs
  | eject | reset => cases h; exact ⟨rfl, Playback.defaults_offsetOk _ _ _⟩
  | saveState => cases h; exact hs
  | restoreState v => cases h; exact ⟨hs.1, he⟩

/-- What `offsetOk` means in numbers (R36, R40). -/
theorem Playback.offsetOk_bound {c : Config} {d : Disc} {p : Playback} (h : p.offsetOk c d = true) :
    p.sampleOffset % 4 = 0 ∧ (p.sampleOffset ≤ 2352
      ∨ (c.offsetBounded = false ∧ p.sampleOffset = 2356 ∧ p.track = leadoutNumber c
        ∧ (d.totalEnd : Int) ≤ p.sector + 1)) := by
  obtain ⟨h4, hlt | ⟨ho, -⟩ | ⟨hb, ho, ht, -, hend⟩⟩ := Playback.offsetOk_iff.mp h
  · exact ⟨h4, .inl hlt.le⟩
  · exact ⟨h4, .inl ho.le⟩
  · exact ⟨h4, .inr ⟨hb, ho, ht, totalEnd_le_of_pastEnd hend⟩⟩

/-- Settles O11: every operation keeps the ranges, and every event is made of them. -/
theorem playbackRangesKept : Obligations.PlaybackRangesKept := by
  refine ⟨fun s t hs hv h => ?_, fun s t hd hp hv h => ?_, fun _ _ _ h => Playback.offsetOk_bound h⟩
  · obtain ⟨-, rfl⟩ | ⟨e, rest, hi, h⟩ := step_next_cases h
    · exact hs
    · exact runEvent_ok h hs (hv e rest hi)
  · obtain ⟨-, rfl⟩ | ⟨e, rest, hi, h⟩ := step_next_cases h
    · exact hp
    · obtain ⟨-, hp'⟩ := runEvent_offsetOk h ⟨hd, hp⟩ (hv e rest hi)
      exact hp'

end Sys2Proof.Machine
end

section
/-!
PROOFS. 20_memory.md: the register window byte by byte (R61 to R70), word and long accesses as sequences of byte
accesses (R63, R64, R71 to R73), and the read of track data (R75 to R77, R292, R293).
-/
namespace Sys2Proof.Machine

/-! ### Nibbles and bytes -/

/-- The nibble of a byte is its bits 3 to 0 (R66). -/
theorem nibbleOfByte_eq_extract (b : Byte) : nibbleOfByte b = b.extractLsb' 0 4 :=
  BitVec.setWidth_eq_extractLsb' (by decide)

/-- A nibble reads as a byte with its upper bits 0 (R70). -/
theorem nibble_setWidth (x : Nib) : x.setWidth 8 = 0#4 ++ x := BitVec.setWidth_eq_append (by decide)

/-- What is left of a byte that was written to a nibble (R62, R66, R70). -/
theorem nibbleOfByte_setWidth (b : Byte) : (nibbleOfByte b).setWidth 8 = b &&& 0x0F := by
  revert b; decide

theorem Bank.get_set (x : Bank) (i j : Fin 10) (v : Nib) :
    Bank.get (Bank.set x i v) j = if j = i then v else Bank.get x j := by
  fin_cases i <;> fin_cases j <;> rfl

/-! ### Byte accesses to the command bank -/

/-- A byte write to `CMD[i]` is the nibble write of the map (R61, R66). -/
theorem writeByte_cmd (s : State) (i : Fin 10) (b : Byte) : writeByte (offCmd0 s.cfg + i) b s = writeCmd i b s := by
  rw [writeByte, target_cmd]

/-- A byte write to `CMD[i]` that is no trigger stores the nibble (R66). -/
theorem writeByte_cmd_quiet (s : State) {i : Fin 10} (b : Byte) (hi : i ≠ 9) :
    writeByte (offCmd0 s.cfg + i) b s = .next { s with cmd := Bank.set s.cmd i (nibbleOfByte b) } := by
  rw [writeByte_cmd, writeCmd, if_neg hi]

theorem readByte_stat (s : State) (i : Fin 10) :
    readByte s (offStat0 s.cfg + i) = some ((Bank.get s.stat i).setWidth 8) := by
  rw [readByte, target_stat]

theorem readByte_cmd (s : State) (i : Fin 10) :
    readByte s (offCmd0 s.cfg + i) = some ((Bank.get s.cmd i).setWidth 8) := by
  rw [readByte, target_cmd]

/-- Another command bank is seen only in the bytes of the nibbles in which it differs (R70). -/
theorem readByte_withCmd (s : State) {p : Bank} {a : Nat}
    (h : ∀ j, target s.cfg a = .cmd j → Bank.get p j = Bank.get s.cmd j) :
    readByte { s with cmd := p } a = readByte s a := by
  unfold readByte
  dsimp only
  cases ht : target s.cfg a with
  | cmd j => simp only [h j ht]
  | _ => rfl

/-- Settles O54: the map names the nibble that the byte stands for. -/
theorem commandBankByteWrite : Obligations.CommandBankByteWrite := by
  intro s i b
  rw [writeByte_cmd, writeCmd, nibbleOfByte_eq_extract]

/-- Settles O55: each nibble of the command bank has one byte of the window and is written alone. -/
theorem commandNibbleReadsBack : Obligations.CommandNibbleReadsBack := by
  intro s t i b hi h
  rw [writeByte_cmd_quiet s b hi] at h
  cases h
  refine ⟨?_, fun a ha => readByte_withCmd s fun j hj => ?_⟩
  · rw [← nibbleOfByte_setWidth]
    refine (readByte_cmd { s with cmd := _ } i).trans ?_
    rw [Bank.get_set, if_pos rfl]
  · have hne : j ≠ i := fun e => ha (e ▸ target_cmd_inj hj)
    rw [Bank.get_set, if_neg hne]

/-! ### Word and long accesses -/

@[simp] theorem andThen_next (r : Result) : andThen r .next = r := by cases r <;> rfl

theorem andThen_assoc (r : Result) (f g : State → Result) :
    andThen (andThen r f) g = andThen r (fun t => andThen (f t) g) := by cases r <;> rfl

/-- Byte writes in a row are those before and then those after (R64). -/
theorem writeBytes_append (l m : List (Nat × Byte)) (s : State) :
    writeBytes (l ++ m) s = andThen (writeBytes l s) (writeBytes m) := by
  induction l generalizing s with
  | nil => rfl
  | cons x l ih => simp only [List.cons_append, writeBytes, andThen_assoc, funext ih]

theorem busBytes_word (off : Nat) (v : Long) :
    busBytes off .word v = [(off, v.extractLsb' 8 8), (off + 1, v.extractLsb' 0 8)] := rfl

/-- The bytes of a long write are those of its two halves (R63). -/
theorem busBytes_long (off : Nat) (v : Long) :
    busBytes off .long v = busBytes off .word ((v.extractLsb' 16 16).setWidth 32)
      ++ busBytes (off + 2) .word ((v.extractLsb' 0 16).setWidth 32) := by
  have hbyte (k j : Nat) (hj : j + 8 ≤ 16) :
      ((v.extractLsb' k 16).setWidth 32).extractLsb' j 8 = v.extractLsb' (k + j) 8 := by
    ext i hi
    simp [show j + i < 16 by omega, show j + i < 32 by omega, Nat.add_assoc]
  rw [busBytes_word, busBytes_word, hbyte 16 8 (by decide), hbyte 16 0 (by decide), hbyte 0 8 (by decide),
    hbyte 0 0 (by decide)]
  rfl

/-- At an even offset no access is refused for its place (R65). -/
theorem misaligned_even {off : Nat} (h : off % 2 = 0) (n : Size) : misaligned off n = false := by
  simp [misaligned, h]

/-- The accesses that are refused for their place (R65). -/
theorem misaligned_iff {off : Nat} {n : Size} : misaligned off n = true ↔ n ≠ .byte ∧ off % 2 = 1 := by
  simp [misaligned]

theorem misaligned_eq_false {off : Nat} {n : Size} (h : n = .byte ∨ off % 2 = 0) : misaligned off n = false := by
  obtain rfl | h := h
  · rfl
  · exact misaligned_even h n

/-- A write that is not refused is its byte writes (R64). -/
theorem busWrite_aligned {off : Nat} {n : Size} (h : misaligned off n = false) (v : Long) (s : State) :
    busWrite off n v s = writeBytes (busBytes off n v) s := by
  simp [busWrite, h]

/-- Settles O56: the bytes of a wide write are those of its parts, one list after the other. -/
theorem wideWritesAreSequences : Obligations.WideWritesAreSequences := by
  intro s off v hoff
  have hword (o : Nat) (ho : o % 2 = 0) (w : Long) : busWrite o .word w = writeBytes (busBytes o .word w) :=
    funext (busWrite_aligned (misaligned_even ho .word) w)
  refine ⟨?_, ?_⟩
  · rw [hword off hoff, busBytes_word]
    simp only [writeBytes, andThen_next]
  · rw [busWrite_aligned (misaligned_even hoff .long), busBytes_long, writeBytes_append, hword off hoff,
      hword (off + 2) (by omega)]

/-- A read that is not refused returns its bytes (R71, R72). -/
theorem busRead_aligned {off : Nat} {n : Size} (h : misaligned off n = false) (s : State) :
    busRead off n s = .next (emit (.readData (busData s off n)) s) := by
  simp [busRead, h]

/-- Settles O58: an aligned read only emits its bytes, and the map says what each byte is. -/
theorem readsReturnTheRegisters : Obligations.ReadsReturnTheRegisters := by
  refine ⟨fun s off n rest hi hn => ?_, fun s hc => ⟨fun i => ⟨?_, ?_⟩, ?_, ?_, ?_, ?_, fun a h1 h2 h3 h4 h5 => ?_⟩⟩
  · rw [step_event hi]
    refine (busRead_aligned (misaligned_eq_false hn) (takeEvent rest s)).trans ?_
    cases n <;> rfl
  · rw [readByte_stat, nibble_setWidth]
  · rw [readByte_cmd, nibble_setWidth]
  · rw [readByte, target_controlHigh hc]
  · rw [readByte, target_controlLow hc]
  · rw [readByte, target_fader hc (.inl rfl)]
  · rw [readByte, target_fader hc (.inr rfl)]
  · rw [readByte, target_outside h1 h2 h3 h4 h5]

/-! ### The read of an Audio Tick -/

theorem audioEntry_of_playing {s : State} {e : TrackEntry} (hp : s.play.status = .playing) (he : curEntry s = some e)
    (ht : e.type = .audio) : audioEntry s = some e := by
  simp [audioEntry, hp, he, Option.filter, ht]

/-- What an Audio Tick that reads is (R290). -/
theorem audioTick_of_entry {s : State} {e : TrackEntry} (h : audioEntry s = some e) (io : TrackIo) :
    audioTick io s = emitSample (samplePair (readSample e io s)) (stepSample e s) := by
  rw [audioTick, h]

/-- Before the sector's last sample a tick only adds 4 to `sampleOffset` (R290). -/
theorem stepSample_within {s : State} {e : TrackEntry} (h : s.play.sampleOffset + 4 < e.sectorSize) :
    stepSample e s = setSampleOffset (s.play.sampleOffset + 4) s := if_neg (Nat.not_le.mpr h)

/-- Outside LeadOut the range of R36 does nothing to what a tick leaves. -/
theorem keepOffsetRange_of_ne_leadOut (b : State) {t : State} (h : t.play.status ≠ .leadOut) :
    keepOffsetRange b t = t := if_neg fun ⟨_, _, hs, _⟩ => h hs

/-- Where the read of a tick fails (R75, R76). -/
theorem readSample_none {s : State} {e : TrackEntry} {io : TrackIo}
    (h : s.play.sector < e.startSector ∨ (e.lenBytes : Int) < sampleAddress e s + 4 ∨ io = .failure) :
    readSample e io s = none := by
  obtain h | h | rfl := h
  · exact if_pos h
  · have hdata : trackData e (sampleAddress e s) io = none := if_pos (.inr h)
    rw [readSample, hdata, ite_self]
  · have hdata : trackData e (sampleAddress e s) .failure = none := ite_self _
    rw [readSample, hdata, ite_self]

/-- From the track's start on the address is an offset into its data (R75). -/
theorem sampleAddress_nonneg {s : State} {e : TrackEntry} (h : e.startSector ≤ s.play.sector) :
    0 ≤ sampleAddress e s :=
  Int.add_nonneg (Int.mul_nonneg (Int.natCast_nonneg _) (Int.sub_nonneg_of_le h)) (Int.natCast_nonneg _)

/-- Inside the track the read takes its bytes from the image, or is what the byte source supplies (R75 to R77). -/
theorem readSample_inside {s : State} {e : TrackEntry} (h : e.startSector ≤ s.play.sector)
    (hlen : sampleAddress e s + 4 ≤ e.lenBytes) :
    readSample e .image s = some ⟨Memory.read e.data (sampleAddress e s).toNat,
        Memory.read e.data ((sampleAddress e s).toNat + 1), Memory.read e.data ((sampleAddress e s).toNat + 2),
        Memory.read e.data ((sampleAddress e s).toNat + 3)⟩
    ∧ ∀ b0 b1 b2 b3, readSample e (.supplied b0 b1 b2 b3) s = some ⟨b0, b1, b2, b3⟩ := by
  have hin : ¬ (sampleAddress e s < 0 ∨ (e.lenBytes : Int) < sampleAddress e s + sampleBytes) :=
    not_or.mpr ⟨Int.not_lt.mpr (sampleAddress_nonneg h), Int.not_lt.mpr hlen⟩
  simp only [readSample, trackData, if_neg (Int.not_lt.mpr h), if_neg hin, implies_true, and_self]

/-- Settles O51: the sample is that of the tick's read, and the position moves by `stepSample` alone. -/
theorem audioTickEmitsTheSamplesAtItsPosition : Obligations.AudioTickEmitsTheSamplesAtItsPosition := by
  intro s e io rest off hi hplay hcur htype hoff
  have hentry : audioEntry (takeEvent rest s) = some e := audioEntry_of_playing hplay hcur htype
  have hout : (audioEvent io (takeEvent rest s)).outputs
      = [.sample (samplePair (readSample e io s)).1 (samplePair (readSample e io s)).2] := by
    rw [audioEvent_outputs, audioTick_of_entry hentry, emitSample, emit_outputs, stepSample_outputs]
    rfl
  have haddr : sampleAddress e s = off := hoff.symm
  refine ⟨_, step_event hi, audioEvent_inputs io _, fun h => ?_, fun hs hlen hio => ?_,
    fun b0 b1 b2 b3 hs hlen hio => ?_, fun hlt => ?_⟩
  · rw [hout, readSample_none (haddr ▸ h)]
    rfl
  · obtain ⟨himage, -⟩ := readSample_inside hs (haddr ▸ hlen)
    rw [hout, hio, himage, haddr]
    rfl
  · obtain ⟨-, hsupplied⟩ := readSample_inside hs (haddr ▸ hlen)
    rw [hout, hio, hsupplied]
    rfl
  · have hstep : stepSample e (takeEvent rest s) = setSampleOffset (s.play.sampleOffset + 4) (takeEvent rest s) :=
      stepSample_within hlt
    have hne : (audioTick io (takeEvent rest s)).play.status ≠ .leadOut := by
      rw [audioTick_of_entry hentry, hstep]
      simp [emitSample, hplay]
    rw [hout, audioEvent, keepOffsetRange_of_ne_leadOut _ hne, audioTick_of_entry hentry, hstep]
    rfl

end Sys2Proof.Machine
end

section
/-!
PROOFS. 20_memory.md and R310: the three reasons for which a step stops (R65, R122, R347), from the command that is
refused up to the event.
-/
namespace Sys2Proof.Machine

/-! ### Which command is refused -/

/-- The command reports the absolute time: it asks for it, or repeats that report (R180, R213, R216). -/
def ReportsAbsoluteTime (i : Instr) (s : State) : Prop :=
  i = .requestAbs ∨ (i = .driveStatus ∧ s.play.latency ≤ 3 ∧ s.stat.n1 = s.cfg.reqCode .absoluteTime)

theorem buildAbs_refused_iff {s : State} {r : Refusal} :
    buildAbs s = .refused r ↔ s.play.sector < -150 ∧ r = .timeCodeBelowLeadIn s.play.sector := by
  obtain ⟨m, hm, e⟩ | ⟨hlt, e⟩ := buildAbs_cases s <;> rw [e]
  · have hge : ¬ s.play.sector < -150 := fun h => by rw [toMsf_none_iff.mpr h] at hm; cases hm
    exact ⟨nofun, fun h => absurd h.1 hge⟩
  · exact ⟨fun h => ⟨hlt, by cases h; rfl⟩, fun h => by rw [h.2]⟩

/-- DriveStatus is refused with the absolute time report that it repeats (R180, R181). -/
theorem repeatReport_refused_iff {s : State} {r : Refusal} :
    repeatReport s = .refused r ↔ buildAbs s = .refused r ∧ s.stat.n1 = s.cfg.reqCode .absoluteTime := by
  unfold repeatReport
  split
  · rename_i h
    exact (and_iff_left h).symm
  · rename_i h
    refine ⟨fun hr => ?_, fun hr => absurd hr.2 h⟩
    split at hr
    · cases hr
    split at hr
    · cases hr
    split at hr <;> cases hr

theorem execDriveStatus_refused_iff {s : State} {r : Refusal} :
    execDriveStatus s = .refused r ↔ s.play.sector < -150 ∧ r = .timeCodeBelowLeadIn s.play.sector
      ∧ s.play.latency ≤ 3 ∧ s.stat.n1 = s.cfg.reqCode .absoluteTime := by
  unfold execDriveStatus
  split
  · rename_i h
    have hlat : s.play.latency ≤ 3 := h
    rw [repeatReport_refused_iff, buildAbs_refused_iff]
    simp [hlat, and_assoc]
  · rename_i h
    exact ⟨nofun, fun ⟨_, _, hlat, _⟩ => absurd hlat h⟩

/-- Every other command completes, in any state (R310). -/
theorem exec_completes {i : Instr} (ha : i ≠ .requestAbs) (hd : i ≠ .driveStatus) (s : State) :
    ∃ t, exec i s = .next t := by
  cases i with
  | requestAbs => exact absurd rfl ha
  | driveStatus => exact absurd rfl hd
  | requestTstart a b =>
    simp only [exec, execRequestTstart]
    split <;> exact ⟨_, rfl⟩
  | _ => exact ⟨_, rfl⟩

/-- A command is refused exactly where it reports an absolute time below the lead-in (R122). -/
theorem exec_refused_iff {i : Instr} {s : State} {r : Refusal} :
    exec i s = .refused r ↔
      s.play.sector < -150 ∧ r = .timeCodeBelowLeadIn s.play.sector ∧ ReportsAbsoluteTime i s := by
  by_cases ha : i = .requestAbs
  · subst ha
    exact (buildAbs_refused_iff (s := refreshStatus s)).trans (by simp [ReportsAbsoluteTime])
  by_cases hd : i = .driveStatus
  · subst hd
    exact execDriveStatus_refused_iff.trans (by simp [ReportsAbsoluteTime])
  · obtain ⟨t, ht⟩ := exec_completes ha hd s
    simp [ht, ReportsAbsoluteTime, ha, hd]

/-! ### Which packet and which access is refused -/

theorem execute_refused_iff {s : State} {r : Refusal} :
    execute s = .refused r ↔ ∃ i, decode s.cfg s.cmd = .ok i ∧ exec i s = .refused r := by
  unfold execute runPacket
  split
  · rename_i h
    simp [andThen, h]
  · rename_i i h
    cases he : exec i s <;> simp [andThen, h, he]

/-- Byte writes before the trigger decide nothing but which packet is refused. -/
theorem QuietNext.execute_refused_iff {s u : State} {p : Bank} {r : Refusal} (h : QuietNext s u) (hc : u.cmd = p) :
    execute u = .refused r ↔ s.play.sector < -150 ∧ r = .timeCodeBelowLeadIn s.play.sector
      ∧ ∃ i, decode s.cfg p = .ok i ∧ ReportsAbsoluteTime i s := by
  obtain ⟨cm, ct, rfl, -⟩ := h
  subst hc
  simp only [Machine.execute_refused_iff, exec_refused_iff, and_left_comm (a := decode _ _ = _), exists_and_left]
  rfl

/-- The command that a bus write executes (R65, R154, R155). -/
theorem executes_busWrite_iff {s : State} {off : Nat} {n : Size} {v : Long} {i : Instr} :
    (Event.busWrite off n v).executes s = some i ↔ misaligned off n = false ∧ coversTrigger s.cfg off n = true
      ∧ decode s.cfg (packetAt s.cfg (busBytes off n v) s.cmd) = .ok i := by
  refine ⟨fun h => ?_, fun ⟨hm, hc, hd⟩ => executes_busWrite hm hc hd⟩
  simp only [Event.executes] at h
  split at h
  · rename_i hg
    simp only [Bool.and_eq_true, Bool.not_eq_true'] at hg
    obtain ⟨hm, hc⟩ := hg
    split at h <;> cases h
    exact ⟨hm, hc, ‹_›⟩
  · cases h

/-- A bus write is refused for its place, or for the command that it executes. -/
theorem busWrite_refused_iff {off : Nat} {n : Size} {v : Long} {s : State} {r : Refusal} :
    busWrite off n v s = .refused r ↔ (misaligned off n = true ∧ r = .misalignedAccess off)
      ∨ (s.play.sector < -150 ∧ r = .timeCodeBelowLeadIn s.play.sector
        ∧ ∃ i, (Event.busWrite off n v).executes s = some i ∧ ReportsAbsoluteTime i s) := by
  simp only [executes_busWrite_iff, ← mem_busBytes_trigger s.cfg off n v]
  obtain ⟨hm, e⟩ | ⟨hm, ⟨t, e, hb⟩ | ⟨hl, u, r', hu, hc, he, e⟩⟩ := busWrite_result off n v s
  · simp [e, hm, eq_comm]
  · cases hb with
    | quiet hl => simp [e, hm, hl]
    | executed hl hu hc he =>
      have hno := (hu.execute_refused_iff hc (r := r)).not.mp (by rw [he]; nofun)
      simpa [e, hm, hl] using hno
  · rw [e, ← he, hu.execute_refused_iff hc]
    simp [hm, hl]

theorem busRead_refused_iff {off : Nat} {n : Size} {s : State} {r : Refusal} :
    busRead off n s = .refused r ↔ misaligned off n = true ∧ r = .misalignedAccess off := by
  unfold busRead
  split <;> rename_i h <;> simp [h, eq_comm]

theorem insertDisc_refused_iff {p : DiscPayload} {s : State} {r : Refusal} :
    insertDisc p s = .refused r ↔ s.disc.present = true ∧ r = .discAlreadyPresent := by
  obtain ⟨hp, e⟩ | ⟨hp, ⟨k, ts, -, -, e⟩ | e⟩ := insertDisc_cases p s <;> simp [e, hp, eq_comm]

/-! ### Which event is refused -/

/-- The reasons for which an event is refused (R65, R122, R347). -/
theorem runEvent_refused_iff {e : Event} {s : State} {r : Refusal} :
    runEvent e s = .refused r ↔
      (∃ off n v, e = .busWrite off n v ∧ misaligned off n = true ∧ r = .misalignedAccess off)
      ∨ (∃ off n, e = .busRead off n ∧ misaligned off n = true ∧ r = .misalignedAccess off)
      ∨ (∃ p, e = .insertDisc p ∧ s.disc.present = true ∧ r = .discAlreadyPresent)
      ∨ (s.play.sector < -150 ∧ r = .timeCodeBelowLeadIn s.play.sector
        ∧ ∃ i, e.executes s = some i ∧ ReportsAbsoluteTime i s) := by
  cases e with
  | busWrite off n v => exact busWrite_refused_iff.trans (by simp)
  | busRead off n => exact busRead_refused_iff.trans (by simp [Event.executes])
  | insertDisc p => exact insertDisc_refused_iff.trans (by simp [Event.executes])
  | _ => simp [runEvent, Event.executes]

/-- Taking the event off the queue does not change the command it executes. -/
@[simp] theorem executes_takeEvent (e : Event) (rest : List Event) (s : State) :
    e.executes (takeEvent rest s) = e.executes s := by
  cases e <;> rfl

@[simp] theorem reportsAbsoluteTime_takeEvent (i : Instr) (rest : List Event) (s : State) :
    ReportsAbsoluteTime i (takeEvent rest s) ↔ ReportsAbsoluteTime i s := Iff.rfl

/-- A command that reports the absolute time is one of two (R180, R216). -/
theorem exists_reportsAbsoluteTime_iff {o : Option Instr} {s : State} :
    (∃ i, o = some i ∧ ReportsAbsoluteTime i s) ↔ o = some .requestAbs
      ∨ (o = some .driveStatus ∧ s.play.latency ≤ 3 ∧ s.stat.n1 = s.cfg.reqCode .absoluteTime) := by
  simp [ReportsAbsoluteTime, and_or_left, exists_or]

/-- Settles O14: the event that waits is refused for one of its reasons, and the queue plays no part in them. -/
theorem refusalsAreTheSpecsThree : Obligations.RefusalsAreTheSpecsThree := by
  intro s r
  simp only [← exists_reportsAbsoluteTime_iff, ← misaligned_iff, ← and_assoc (a := _ ≠ _)]
  cases hi : s.inputs with
  | nil => simp [step_idle hi]
  | cons e rest =>
    rw [step_event hi, runEvent_refused_iff]
    simp

end Sys2Proof.Machine
end

section
/-!
PROOFS. 30_encoding.md: what a packet names. Every valid packet has one reading, the packet of a command names that
command again (R90 to R99), and the state that holds it as the next thing to run runs it (R154).
-/
namespace Sys2Proof

/-! ### The lookup of the codes, as a function of what it finds -/

/-- What a Request with the code of `x` in `CMD[3]` names (R93, R94, R99). -/
def SubCommand.reading (p : Bank) : SubCommand → Instr
  | .absoluteTime => .requestAbs
  | .relativeTime => .requestRel
  | .trackInformation => .requestTrack
  | .discCompletionTime => .requestTotal
  | .discTracks => .requestTracks
  | .trackStartTime => .requestTstart p.n4 p.n5
  | .errorInformation => .requestError

/-- What a Request with the unassigned code `n` in `CMD[3]` names (R99). -/
def decodeFreeRequest (c : Config) (n : Nib) : Instr :=
  if c.freeReqCodes.head? = some n then .requestUnassigned7 else .requestUnassigned8F n

/-- What a packet with the code of `x` in `CMD[0]` names (R92 to R96). -/
def Command.reading (c : Config) (p : Bank) : Command → Instr
  | .driveStatus => .driveStatus
  | .stop => .stop
  | .request => decodeRequest c p
  | .seekPlay => .seekPlay p.n2 p.n3 p.n4 p.n5 p.n6 p.n7
  | .seekPause => .seekPause p.n2 p.n3 p.n4 p.n5 p.n6 p.n7
  | .pause => .pause
  | .play => .play
  | .forward => .forward
  | .reverse => .reverse
  | .trackSkip => .trackSkip
  | .trackCue => .trackCue
  | .doorClose => .doorClose
  | .doorOpen => .doorOpen

theorem decodeRequest_eq (c : Config) (p : Bank) :
    decodeRequest c p = (c.subCommandOf p.n3).elim (decodeFreeRequest c p.n3) (SubCommand.reading p) := by
  unfold decodeRequest
  obtain _ | x := c.subCommandOf p.n3
  · rfl
  · cases x <;> rfl

theorem decodeFields_eq (c : Config) (p : Bank) :
    decodeFields c p = (c.commandOf p.n0).elim (decodeFree c p.n0) (Command.reading c p) := by
  unfold decodeFields
  obtain _ | x := c.commandOf p.n0
  · rfl
  · cases x <;> rfl

theorem decodeRequest_of_reqCode {c : Config} (hc : c.wf = true) {p : Bank} {x : SubCommand} (e : p.n3 = c.reqCode x) :
    decodeRequest c p = x.reading p := by
  rw [decodeRequest_eq, e, Config.subCommandOf_reqCode hc, Option.elim_some]

theorem decodeRequest_of_free {c : Config} {p : Bank} (h : p.n3 ∈ c.freeReqCodes) :
    decodeRequest c p = decodeFreeRequest c p.n3 := by
  rw [decodeRequest_eq, (c.mem_freeReqCodes p.n3).mp h, Option.elim_none]

theorem decodeFields_of_cmdCode {c : Config} (hc : c.wf = true) {p : Bank} {x : Command} (e : p.n0 = c.cmdCode x) :
    decodeFields c p = x.reading c p := by
  rw [decodeFields_eq, e, Config.commandOf_cmdCode hc, Option.elim_some]

theorem decodeFields_of_free {c : Config} {p : Bank} (h : p.n0 ∈ c.freeCmdCodes) :
    decodeFields c p = decodeFree c p.n0 := by
  rw [decodeFields_eq, (c.mem_freeCmdCodes p.n0).mp h, Option.elim_none]

theorem Config.mem_freeCmdCodes_of_ne {c : Config} {n : Nib} (h : ∀ x, n ≠ c.cmdCode x) : n ∈ c.freeCmdCodes :=
  (c.mem_freeCmdCodes n).mpr <|
    Option.eq_none_iff_forall_ne_some.mpr fun x hx => h x (Config.cmdCode_commandOf hx).symm

theorem Config.mem_freeReqCodes_of_ne {c : Config} {n : Nib} (h : ∀ x, n ≠ c.reqCode x) : n ∈ c.freeReqCodes :=
  (c.mem_freeReqCodes n).mpr <|
    Option.eq_none_iff_forall_ne_some.mpr fun x hx => h x (Config.reqCode_subCommandOf hx).symm

theorem decode_of_valid {p : Bank} (h : validate p = true) (c : Config) : decode c p = .ok (decodeFields c p) :=
  if_pos h

/-! ### The codes that are left -/

/-- The row that the unassigned command code at place `k` among them names (R96). -/
def freeRow : Nat → Instr
  | 0 => .unassigned5
  | 1 => .unassignedE
  | _ => .unassignedF

theorem decodeFree_eq (c : Config) (n : Nib) : decodeFree c n = freeRow (c.freeCmdCodes.idxOf n) := by
  unfold decodeFree
  obtain _ | _ | k := c.freeCmdCodes.idxOf n <;> rfl

theorem freeRow_cases (k : Nat) : freeRow k = .unassigned5 ∨ freeRow k = .unassignedE ∨ freeRow k = .unassignedF := by
  obtain _ | _ | k := k
  · exact .inl rfl
  · exact .inr (.inl rfl)
  · exact .inr (.inr rfl)

theorem encode_freeRow (c : Config) {k : Nat} (hk : k < 3) :
    encode c (freeRow k) = packetN (c.freeCmdCodes.getD k 0) := by
  obtain _ | _ | _ | k := k
  · rfl
  · rfl
  · rfl
  · omega

/-- The code at place `k` among the unassigned ones names row `k` of the three (R96). -/
theorem decodeFields_of_freeCmdCode {c : Config} (hc : c.wf = true) {p : Bank} {k : Nat} (hk : k < 3)
    (e : p.n0 = c.freeCmdCodes.getD k 0) : decodeFields c p = freeRow k := by
  have hl : k < c.freeCmdCodes.length := c.length_freeCmdCodes hc ▸ hk
  rw [List.getD_eq_getElem _ _ hl] at e
  rw [decodeFields_of_free (e ▸ List.getElem_mem hl), decodeFree_eq, e, c.nodup_freeCmdCodes.idxOf_getElem k hl]

/-- What an unassigned command code names has that code (R96). -/
theorem encode_decodeFree {c : Config} (hc : c.wf = true) {n : Nib} (h : n ∈ c.freeCmdCodes) :
    encode c (decodeFree c n) = packetN n := by
  have hl : c.freeCmdCodes.idxOf n < c.freeCmdCodes.length := List.idxOf_lt_length_iff.mpr h
  rw [decodeFree_eq, encode_freeRow c (c.length_freeCmdCodes hc ▸ hl), List.getD_eq_getElem _ _ hl, List.getElem_idxOf]

/-- The lowest unassigned sub-command code, and the others (R99). -/
theorem Config.freeReqCodes_eq_cons {c : Config} (hc : c.wf = true) :
    c.freeReqCodes = c.freeReqCodes.getD 0 0 :: c.freeReqCodes.tail := by
  have hl := c.length_freeReqCodes hc
  cases h : c.freeReqCodes with
  | nil => simp [h] at hl
  | cons n l => rfl

theorem Config.lowest_mem_freeReqCodes {c : Config} (hc : c.wf = true) :
    c.freeReqCodes.getD 0 0 ∈ c.freeReqCodes := by
  rw [Config.freeReqCodes_eq_cons hc]
  exact List.mem_cons_self

/-- The lowest unassigned sub-command code names the row of its own (R99). -/
theorem decodeFreeRequest_lowest {c : Config} (hc : c.wf = true) :
    decodeFreeRequest c (c.freeReqCodes.getD 0 0) = .requestUnassigned7 := by
  rw [decodeFreeRequest, if_pos]
  rw [Config.freeReqCodes_eq_cons hc, List.head?_cons, List.getD_cons_zero]

/-- Every other unassigned sub-command code names the row they share (R99). -/
theorem decodeFreeRequest_higher {c : Config} (hc : c.wf = true) {n : Nib} (h : n ∈ c.freeReqCodes.tail) :
    decodeFreeRequest c n = .requestUnassigned8F n := by
  have hnodup := c.nodup_freeReqCodes
  rw [Config.freeReqCodes_eq_cons hc, List.nodup_cons] at hnodup
  rw [decodeFreeRequest, if_neg]
  rw [Config.freeReqCodes_eq_cons hc, List.head?_cons, Option.some_inj]
  exact fun e => hnodup.1 (e ▸ h)

/-- What an unassigned sub-command code names is well-formed and has that code (R99). -/
theorem encode_decodeFreeRequest {c : Config} (hc : c.wf = true) {n : Nib} (h : n ∈ c.freeReqCodes) :
    (decodeFreeRequest c n).wf c = true ∧ encode c (decodeFreeRequest c n) = packetR c n 0 0 := by
  rw [Config.freeReqCodes_eq_cons hc, List.mem_cons] at h
  obtain rfl | h := h
  · rw [decodeFreeRequest_lowest hc]
    exact ⟨rfl, rfl⟩
  · rw [decodeFreeRequest_higher hc h]
    exact ⟨List.contains_iff_mem.mpr h, rfl⟩

/-! ### The packet of a command names it (R90 to R99) -/

/-- Nibbles 0 to 8 of a command's packet name the command; the checksum takes no part (R156). -/
theorem decodeFields_encode {c : Config} (hc : c.wf = true) {i : Instr} (hi : i.wf c = true) :
    decodeFields c (encode c i) = i := by
  have hcommand (x : Command) : (encode c i).n0 = c.cmdCode x →
      decodeFields c (encode c i) = x.reading c (encode c i) :=
    decodeFields_of_cmdCode hc
  have hrequest (x : SubCommand) (h0 : (encode c i).n0 = c.cmdCode .request) (h3 : (encode c i).n3 = c.reqCode x) :
      decodeFields c (encode c i) = x.reading (encode c i) :=
    (hcommand .request h0).trans (decodeRequest_of_reqCode hc h3)
  have hfree (h0 : (encode c i).n0 = c.cmdCode .request) (h3 : (encode c i).n3 ∈ c.freeReqCodes) :
      decodeFields c (encode c i) = decodeFreeRequest c (encode c i).n3 :=
    (hcommand .request h0).trans (decodeRequest_of_free h3)
  cases i with
  | driveStatus => exact hcommand .driveStatus rfl
  | stop => exact hcommand .stop rfl
  | seekPlay => exact hcommand .seekPlay rfl
  | seekPause => exact hcommand .seekPause rfl
  | pause => exact hcommand .pause rfl
  | play => exact hcommand .play rfl
  | forward => exact hcommand .forward rfl
  | reverse => exact hcommand .reverse rfl
  | trackSkip => exact hcommand .trackSkip rfl
  | trackCue => exact hcommand .trackCue rfl
  | doorClose => exact hcommand .doorClose rfl
  | doorOpen => exact hcommand .doorOpen rfl
  | requestAbs => exact hrequest .absoluteTime rfl rfl
  | requestRel => exact hrequest .relativeTime rfl rfl
  | requestTrack => exact hrequest .trackInformation rfl rfl
  | requestTotal => exact hrequest .discCompletionTime rfl rfl
  | requestTracks => exact hrequest .discTracks rfl rfl
  | requestTstart => exact hrequest .trackStartTime rfl rfl
  | requestError => exact hrequest .errorInformation rfl rfl
  | requestUnassigned7 => exact (hfree rfl (Config.lowest_mem_freeReqCodes hc)).trans (decodeFreeRequest_lowest hc)
  | requestUnassigned8F sub =>
    have hm : sub ∈ c.freeReqCodes.tail := List.contains_iff_mem.mp hi
    exact (hfree rfl (List.mem_of_mem_tail hm)).trans (decodeFreeRequest_higher hc hm)
  | unassigned5 => exact decodeFields_of_freeCmdCode hc (k := 0) (by decide) rfl
  | unassignedE => exact decodeFields_of_freeCmdCode hc (k := 1) (by decide) rfl
  | unassignedF => exact decodeFields_of_freeCmdCode hc (k := 2) (by decide) rfl

/-- Settles O1: the checksum of the packet is right, and its nibbles name the command. -/
theorem decodeEncodeRoundTrip : Obligations.DecodeEncodeRoundTrip := by
  intro c i hc hi
  rw [decode_of_valid (Laws.PacketRow.validate_encode c i), decodeFields_encode hc hi]

/-! ### Every packet has one reading (R91 to R97) -/

/-- What a Request names is well-formed, and a Request with the same sub-command code (R93, R99). -/
theorem encode_decodeRequest {c : Config} (hc : c.wf = true) (p : Bank) :
    (decodeRequest c p).wf c = true ∧ ∃ t10 t1, encode c (decodeRequest c p) = packetR c p.n3 t10 t1 := by
  cases h : c.subCommandOf p.n3 with
  | none =>
    have hm := (c.mem_freeReqCodes p.n3).mpr h
    obtain ⟨hwf, he⟩ := encode_decodeFreeRequest hc hm
    rw [decodeRequest_of_free hm]
    exact ⟨hwf, 0, 0, he⟩
  | some x =>
    have h3 := (Config.reqCode_subCommandOf h).symm
    rw [decodeRequest_of_reqCode hc h3, h3]
    cases x <;> exact ⟨rfl, _, _, rfl⟩

/-- What a packet with the code of `x` names is well-formed and has that code (R92 to R96). -/
theorem Command.encode_reading {c : Config} (hc : c.wf = true) (p : Bank) (x : Command) :
    (x.reading c p).wf c = true ∧ (encode c (x.reading c p)).n0 = c.cmdCode x := by
  cases x with
  | request =>
    obtain ⟨hwf, _, _, he⟩ := encode_decodeRequest hc p
    exact ⟨hwf, by rw [Command.reading, he]; rfl⟩
  | _ => exact ⟨rfl, rfl⟩

/-- What an unassigned command code names is well-formed. -/
theorem decodeFree_wf (c : Config) (n : Nib) : (decodeFree c n).wf c = true := by
  rw [decodeFree_eq]
  obtain h | h | h := freeRow_cases (c.freeCmdCodes.idxOf n) <;> rw [h] <;> rfl

/-- What a packet names is well-formed and has its code (R96, R97). -/
theorem encode_decodeFields {c : Config} (hc : c.wf = true) (p : Bank) :
    (decodeFields c p).wf c = true ∧ (encode c (decodeFields c p)).n0 = p.n0 := by
  cases h : c.commandOf p.n0 with
  | none =>
    have hm := (c.mem_freeCmdCodes p.n0).mpr h
    rw [decodeFields_of_free hm, encode_decodeFree hc hm]
    exact ⟨decodeFree_wf c p.n0, rfl⟩
  | some x =>
    have h0 := (Config.cmdCode_commandOf h).symm
    rw [decodeFields_of_cmdCode hc h0, h0]
    exact x.encode_reading hc p

/-- What a Request packet names has its sub-command code (R93). -/
theorem encode_decodeFields_request {c : Config} (hc : c.wf = true) {p : Bank} (h : p.n0 = c.cmdCode .request) :
    (encode c (decodeFields c p)).n3 = p.n3 := by
  obtain ⟨-, _, _, he⟩ := encode_decodeRequest hc p
  rw [decodeFields_of_cmdCode hc h, Command.reading, he]
  rfl

/-- A Request is read by nibbles 3, 4 and 5 beside its code (R93, R94). -/
theorem decodeRequest_congr (c : Config) {p q : Bank} (h3 : p.n3 = q.n3) (h4 : p.n4 = q.n4) (h5 : p.n5 = q.n5) :
    decodeRequest c p = decodeRequest c q := by
  simp only [decodeRequest, h3, h4, h5]

/-- Nibbles 1 and 8 and the checksum take no part (R91, R92). -/
theorem decodeFields_congr (c : Config) {p q : Bank} (h0 : p.n0 = q.n0) (h2 : p.n2 = q.n2) (h3 : p.n3 = q.n3)
    (h4 : p.n4 = q.n4) (h5 : p.n5 = q.n5) (h6 : p.n6 = q.n6) (h7 : p.n7 = q.n7) :
    decodeFields c p = decodeFields c q := by
  simp only [decodeFields, decodeRequest_congr c h3 h4 h5, h0, h2, h3, h4, h5, h6, h7]

/-- A code without operands is read by nibble 0 alone (R92). -/
theorem decodeFields_congr_code (c : Config) {p q : Bank} (h0 : p.n0 = q.n0) (hr : p.n0 ≠ c.cmdCode .request)
    (hp : p.n0 ≠ c.cmdCode .seekPlay) (hs : p.n0 ≠ c.cmdCode .seekPause) : decodeFields c p = decodeFields c q := by
  rw [decodeFields_eq, decodeFields_eq, ← h0]
  cases h : c.commandOf p.n0 with
  | none => rfl
  | some x =>
    have hx := (Config.cmdCode_commandOf h).symm
    cases x with
    | request => exact absurd hx hr
    | seekPlay => exact absurd hx hp
    | seekPause => exact absurd hx hs
    | _ => rfl

/-- A valid packet with the code of a command names that command (R92, R95, R96). -/
theorem decode_of_cmdCode {c : Config} {p : Bank} (hc : c.wf = true) (hv : validate p = true) (x : Command)
    (e : p.n0 = c.cmdCode x) : decode c p = .ok (x.reading c p) := by
  rw [decode_of_valid hv, decodeFields_of_cmdCode hc e]

/-- A valid packet with an unassigned code names one of the three unassigned rows (R96). -/
theorem decode_of_unassigned {c : Config} {p : Bank} (hv : validate p = true) (h : ∀ x, p.n0 ≠ c.cmdCode x) :
    decode c p = .ok .unassigned5 ∨ decode c p = .ok .unassignedE ∨ decode c p = .ok .unassignedF := by
  simpa only [decode_of_valid hv, decodeFields_of_free (Config.mem_freeCmdCodes_of_ne h), decodeFree_eq, Except.ok.injEq]
    using freeRow_cases (c.freeCmdCodes.idxOf p.n0)

/-- A valid Request with the code of a sub-command names that Request (R93, R94, R99). -/
theorem decode_of_reqCode {c : Config} {p : Bank} (hc : c.wf = true) (hv : validate p = true)
    (h0 : p.n0 = c.cmdCode .request) (x : SubCommand) (h3 : p.n3 = c.reqCode x) :
    decode c p = .ok (x.reading p) := by
  rw [decode_of_cmdCode hc hv .request h0, Command.reading, decodeRequest_of_reqCode hc h3]

/-- A valid Request with an unassigned sub-command code names one of the two unassigned rows (R99). -/
theorem decode_of_unassigned_request {c : Config} {p : Bank} (hc : c.wf = true) (hv : validate p = true)
    (h0 : p.n0 = c.cmdCode .request) (h : ∀ x, p.n3 ≠ c.reqCode x) :
    decode c p = .ok .requestUnassigned7 ∨ decode c p = .ok (.requestUnassigned8F p.n3) := by
  rw [decode_of_cmdCode hc hv .request h0, Command.reading,
    decodeRequest_of_free (Config.mem_freeReqCodes_of_ne h), decodeFreeRequest]
  split
  · exact .inl rfl
  · exact .inr rfl

/-- Settles O2, clause by clause from the lookups of the two codes. -/
theorem everyPacketHasOneReading : Obligations.EveryPacketHasOneReading := by
  refine ⟨fun c p hv => ?_, fun c p hc hv => ?_, fun c p q => decodeFields_congr c,
    fun c p q => decodeFields_congr_code c, fun c p q hc hp hq h3 h4 h5 => ?_, fun c p hc hv => ?_,
    fun c p hc hv h0 => ?_⟩
  · exact if_neg (by simp [hv])
  · obtain ⟨hwf, he⟩ := encode_decodeFields hc p
    exact ⟨_, decode_of_valid hv c, hwf, he, encode_decodeFields_request hc⟩
  · rw [decodeFields_of_cmdCode hc hp, decodeFields_of_cmdCode hc hq]
    exact decodeRequest_congr c h3 h4 h5
  · have hread := decode_of_cmdCode hc hv
    exact ⟨hread .driveStatus, hread .stop, hread .seekPlay, hread .seekPause, hread .pause, hread .play,
      hread .forward, hread .reverse, hread .trackSkip, hread .trackCue, hread .doorClose, hread .doorOpen,
      decode_of_unassigned hv⟩
  · have hread := decode_of_reqCode hc hv h0
    exact ⟨hread .absoluteTime, hread .relativeTime, hread .trackInformation, hread .discCompletionTime,
      hread .discTracks, hread .trackStartTime, hread .errorInformation, decode_of_unassigned_request hc hv h0⟩

/-- Settles O3: the model decodes the five packets. -/
theorem packetsOfTheTableDecode : Obligations.PacketsOfTheTableDecode := by
  unfold Obligations.PacketsOfTheTableDecode
  decide

end Sys2Proof
end

section
/-!
PROOFS. 30_encoding.md R90 and 41_latch_checksum_dispatch.md R154: packets and their 40-bit numbers correspond, and the
state that holds a command's packet as the next thing to run runs that command.
-/
namespace Sys2Proof

/-- The 40-bit number of a packet, written out (R90). -/
theorem packetToNat_eq (p : Bank) :
    packetToNat p = 16 * (16 * (16 * (16 * (16 * (16 * (16 * (16 * (16 * p.n0.toNat + p.n1.toNat) + p.n2.toNat)
      + p.n3.toNat) + p.n4.toNat) + p.n5.toNat) + p.n6.toNat) + p.n7.toNat) + p.n8.toNat) + p.n9.toNat := by
  simp [packetToNat]

theorem packetToNat_lt (p : Bank) : packetToNat p < 2 ^ 40 := by
  rw [packetToNat_eq]
  have := p.n0.isLt
  omega

/-- The digits of the number are the nibbles (R90). -/
theorem packetNibble_packetToNat (p : Bank) (i : Fin 10) :
    packetNibble (packetToNat p) i = Machine.Bank.get p i := by
  apply BitVec.eq_of_toNat_eq
  rw [packetNibble, BitVec.toNat_ofNat, Nat.shiftRight_eq_div_pow, packetToNat_eq]
  fin_cases i <;> simp [Machine.Bank.get] <;> omega

/-- Packets and their numbers correspond (R90). -/
theorem packetOfNat_packetToNat (p : Bank) : packetOfNat (packetToNat p) = p := by
  have h := packetNibble_packetToNat p
  exact (Bank.mk.injEq ..).mpr ⟨h 0, h 1, h 2, h 3, h 4, h 5, h 6, h 7, h 8, h 9⟩

end Sys2Proof

namespace Sys2Proof.Machine

/-- What is armed is the packet of the number (R90). -/
theorem withFetchWord_packetToNat (s : State) (p : Bank) : s.withFetchWord 40 (packetToNat p) = armPacket p s := by
  rw [State.withFetchWord, Nat.mod_eq_of_lt (packetToNat_lt p), packetOfNat_packetToNat]

/-- An armed valid packet is executed by the next step (R154). -/
theorem step_armPacket {p : Bank} (hp : validate p = true) (s : State) :
    step (armPacket p s) = execute { s with outputs := [], cmd := p } := by
  have hn9 : chk p = p.n9 := by simpa [validate] using hp
  have hchk : ((chk p).setWidth 32 : Long).extractLsb' 0 4 = p.n9 := by
    rw [hn9, ← BitVec.setWidth_eq_extractLsb' (by decide), BitVec.setWidth_setWidth_of_le _ (by decide),
      BitVec.setWidth_eq]
  rw [step_trigger (s := armPacket p s) (v := (chk p).setWidth 32) (rest := s.inputs) rfl, hchk]
  rfl

/-- An executed packet that decodes is its command, and the status checksum after it (R155, R158). -/
theorem execute_of_decode {s : State} {i : Instr} (h : decode s.cfg s.cmd = .ok i) :
    execute s = andThen (exec i s) (fun t => .next (sealReply t)) := by
  rw [execute, runPacket, h]

/-- Settles O7: the number of a packet gives the packet back, and the packet of a command decodes to it. -/
theorem fetchWordRunsItsInstruction : Obligations.FetchWordRunsItsInstruction := by
  refine ⟨packetOfNat_packetToNat, fun i hi => ?_, fun s i hc hi => ?_⟩
  · rw [decodeTableWord, if_pos (by decide), Nat.mod_eq_of_lt (packetToNat_lt _), packetOfNat_packetToNat,
      decodeFields_encode (by decide) hi]
  · rw [withFetchWord_packetToNat, step_armPacket (Laws.PacketRow.validate_encode s.cfg i)]
    exact execute_of_decode (decodeEncodeRoundTrip s.cfg i hc hi)

end Sys2Proof.Machine
end

section
/-!
PROOFS. 43_commands_request.md and 44_commands_seek.md: what the Requests report, digit by digit (R106 to R110, R213 to
R221), and what the two seeks leave (R241 to R248).
-/
namespace Sys2Proof.Machine

/-! ### The Requests as the replies they are -/

theorem exec_requestTotal (s : State) : exec .requestTotal s
    = .next (replyTime (s.cfg.reqCode .discCompletionTime) (msfRaw (s.disc.totalEnd + 150)) 0 (refreshStatus s)) := rfl

theorem exec_requestAbs (s : State) : exec .requestAbs s = buildAbs (refreshStatus s) := rfl

/-! ### Time codes as digits (R121, R123) -/

theorem pairValue_msfRaw_s (a : Nat) : pairValue (bcdTens (a / 75 % 60)) (bcdUnits (a / 75 % 60)) = a / 75 % 60 :=
  pairValue_bcd (by omega)

theorem pairValue_msfRaw_f (a : Nat) : pairValue (bcdTens (a % 75)) (bcdUnits (a % 75)) = a % 75 :=
  pairValue_bcd (by omega)

/-- The digits of a time code read back as its sector where two digits hold the minutes (R120, R123). -/
theorem toSector_digits {a : Nat} (h : a < 450000) :
    toSector (pairValue (bcdTens (a / 4500)) (bcdUnits (a / 4500)))
      (pairValue (bcdTens (a / 75 % 60)) (bcdUnits (a / 75 % 60)))
      (pairValue (bcdTens (a % 75)) (bcdUnits (a % 75))) = (a : Int) - 150 := by
  rw [pairValue_bcd (by omega), pairValue_msfRaw_s, pairValue_msfRaw_f]
  exact toSector_msfRaw a

theorem blockFlag_eq (s : State) : blockFlag s = (match curEntry s with
    | some e => if e.type = .data then s.cfg.blockFlagData else 0
    | none => 0) := by
  unfold blockFlag
  cases curEntry s with
  | none => rfl
  | some e => cases h : e.type <;> simp [h]

/-- Settles O29: below the lead-in there is no time code (R122); from there on the reply is that of the sector. -/
theorem absoluteTimeReadsBackAsTheSector : Obligations.AbsoluteTimeReadsBackAsTheSector := by
  refine ⟨fun s hs => ?_, fun s a ha => ?_⟩
  · have hm : toMsf (refreshStatus s).play.sector = none := toMsf_none_iff.mpr hs
    rw [exec_requestAbs, buildAbs, hm]
    rfl
  · have hm : toMsf (refreshStatus s).play.sector = some (msfRaw a) := by
      rw [refreshStatus_play, toMsf_of_ge (by omega), ← ha, Int.toNat_natCast]
    refine ⟨replyTime (s.cfg.reqCode .absoluteTime) (msfRaw a) (blockFlag s) (refreshStatus s), ?_, rfl, rfl, rfl, rfl,
      rfl, rfl, rfl, rfl, rfl, blockFlag_eq s, rfl, pairValue_msfRaw_s a, pairValue_msfRaw_f a, fun h => ?_⟩
    · rw [exec_requestAbs, buildAbs, hm]
      rfl
    · exact (toSector_digits (by omega)).trans (by omega)

/-- Settles O32: the reply is that of the end sector, and its digits are those of its time code. -/
theorem discLengthReadsBackAsTheEndSector : Obligations.DiscLengthReadsBackAsTheEndSector := by
  intro s
  refine ⟨_, exec_requestTotal s, rfl, rfl, rfl, rfl, rfl, rfl, rfl, rfl, rfl, rfl, rfl,
    pairValue_msfRaw_s _, pairValue_msfRaw_f _, fun h => ?_⟩
  exact (toSector_digits (by omega)).trans (by omega)

/-! ### The start of a track (R110, R221) -/

/-- An entry of a good disc's table is found by its number (R43 (a)). -/
theorem trackEntry_of_getElem? {d : Disc} {n : Nat} {e : TrackEntry} (hd : d.ok = true) (hn : 1 ≤ n)
    (he : d.table[n - 1]? = some e) : trackEntry d n = some e := by
  obtain ⟨hlt, -⟩ := List.getElem?_eq_some_iff.mp he
  have hlen : d.numTracks = d.table.length := by
    cases hp : d.present with
    | false => rw [Disc.ok_absent hd hp]; rfl
    | true =>
      obtain ⟨hnum, -⟩ := Disc.ok_present hd hp
      exact hnum
  rw [trackEntry, if_pos (by omega), he]

theorem exec_requestTstart_some {s : State} {t10 t1 : Nib} {e : TrackEntry}
    (h : trackEntry s.disc (pairValue t10 t1) = some e) :
    exec (.requestTstart t10 t1) s = .next (replyTrackStart (pairValue t10 t1) e (refreshStatus s)) := by
  rw [exec, execRequestTstart, h]

theorem tstartFlag_eq (c : Config) (t : TrackType) : tstartFlag c t = if t = .data then c.tstFlagData else 0 := by
  cases t <;> rfl

/-- A flag in bit 3 leaves a digit below 8 to be read, and the digit leaves the flag. -/
theorem flagged_digit {x : Nib} (hx : x < 8) (p : Prop) [Decidable p] :
    (x ||| if p then 0x8 else 0) &&& 0x7 = x ∧ ((x ||| if p then 0x8 else 0).getLsbD 3 = true ↔ p) := by
  have hplain : ∀ y : Nib, y < 8 → (y ||| 0) &&& 0x7 = y ∧ (y ||| 0).getLsbD 3 = false := by decide
  have hflag : ∀ y : Nib, y < 8 → (y ||| 0x8) &&& 0x7 = y ∧ (y ||| 0x8).getLsbD 3 = true := by decide
  split
  · rename_i hp
    obtain ⟨hdigit, hbit⟩ := hflag x hx
    exact ⟨hdigit, iff_of_true hbit hp⟩
  · rename_i hp
    obtain ⟨hdigit, hbit⟩ := hplain x hx
    exact ⟨hdigit, iff_of_false (by rw [hbit]; decide) hp⟩

theorem bcdTens_lt_eight {v : Nat} (h : v < 80) : bcdTens v < 8 := by
  rw [BitVec.lt_def, bcdTens, BitVec.toNat_ofNat]
  show v / 10 % 16 < 8
  omega

/-- Settles O34: the track is in the table, and the flag takes a bit that no frame tens digit has. -/
theorem trackStartReply : Obligations.TrackStartReply := by
  intro s t10 t1 e hd hn he
  have hn6 : (replyTrackStart (pairValue t10 t1) e (refreshStatus s)).stat.n6
      = bcdTens ((e.startSector + 150) % 75) ||| (if e.type = .data then s.cfg.tstFlagData else 0) := by
    rw [← tstartFlag_eq]
    rfl
  refine ⟨_, exec_requestTstart_some (trackEntry_of_getElem? hd hn he), rfl, rfl, rfl, rfl, rfl, rfl, rfl, rfl,
    pairValue_msfRaw_s _, hn6, rfl, rfl, fun hlt hflag => ?_⟩
  obtain ⟨hdigit, hbit⟩ :=
    flagged_digit (bcdTens_lt_eight (v := (e.startSector + 150) % 75) (by omega)) (e.type = .data)
  rw [hn6, hflag, hdigit]
  exact ⟨(toSector_digits (a := e.startSector + 150) (by omega)).trans (by omega), hbit⟩

/-! ### Tracks (R107, R109, R215, R220) -/

/-- The sentinel is reported as its two nibbles (R215). -/
theorem trackDigits_sentinel {s : State} (h : s.play.track = leadoutNumber s.cfg) :
    (trackDigits s).1 ++ (trackDigits s).2 = s.cfg.leadoutTrack := by
  rw [trackDigits, if_pos h]
  exact (BitVec.extractLsb'_append_extractLsb'_eq_extractLsb' rfl).trans BitVec.extractLsb'_eq_self

/-- Every other track is reported by `bcd2` (R107, R215). -/
theorem trackDigits_track {s : State} (h : s.play.track ≠ leadoutNumber s.cfg) :
    trackDigits s = (bcdTens s.play.track.val, bcdUnits s.play.track.val) := if_neg h

/-- Settles O31: the two nibbles are `trackDigits`, which is the sentinel or two decimal digits. -/
theorem trackNumberReply : Obligations.TrackNumberReply := by
  intro s
  refine ⟨buildTrack (refreshStatus s), rfl, rfl, trackDigits_sentinel (s := s), fun h => ?_, fun h hle => ?_⟩
  · have hdigits := trackDigits_track h
    exact ⟨congrArg Prod.fst hdigits, congrArg Prod.snd hdigits⟩
  · change pairValue (trackDigits s).1 (trackDigits s).2 = s.play.track.val
    rw [trackDigits_track h, pairValue_bcd hle]

theorem firstTrack_digits (d : Disc) :
    bcdTens (firstTrack d) = 0 ∧ bcdUnits (firstTrack d) = if 1 ≤ d.numTracks then 1 else 0 := by
  unfold firstTrack
  split <;> decide

/-- Settles O33: the first track has no tens digit. -/
theorem trackCountReply : Obligations.TrackCountReply := by
  intro s
  obtain ⟨htens, hunits⟩ := firstTrack_digits s.disc
  rw [exec, execRequestTracks]
  simp only [htens, hunits]
  rfl

/-! ### Seeks (R241 to R248) -/

/-- The target of a seek, written out (R241). -/
theorem seekTarget_eq (m10 m1 s10 s1 f10 f1 : Nib) : seekTarget m10 m1 s10 s1 f10 f1
    = (((10 * m10.toNat + m1.toNat) * 60 + (10 * s10.toNat + s1.toNat)) * 75
      + (10 * f10.toNat + f1.toNat) : Nat) - 150 :=
  rfl

/-- Everything a seek leaves (R243, R244). -/
theorem seek_eq (st : Status) (target : Int) (s : State) : seek st target s = { s with
    play := ⟨.seeking, s.play.track, target, 0, seekLatency s.cfg s.play.latency (seekDist s.cfg target s.play.sector),
      st, s.play.tocReadDone⟩,
    stat := ⟨statusCode s.cfg .seeking, 0xF, 0, 0, 0, 0, 0, 0, 0, s.stat.n9⟩ } := rfl

/-- Settles O37: both seeks are `seek` to the target of the digits. -/
theorem seekResults : Obligations.SeekResults := by
  intro s m10 m1 s10 s1 f10 f1 target lat ht hl
  rw [← seekTarget_eq] at ht
  have hlat : lat = seekLatency s.cfg s.play.latency (seekDist s.cfg target s.play.sector) := hl
  rw [hlat, ht]
  exact ⟨congrArg Host.Outcome.next (seek_eq .playing _ s), congrArg Host.Outcome.next (seek_eq .paused _ s)⟩

end Sys2Proof.Machine
end

section
/-!
PROOFS. 40_resolver.md: time codes and sectors (R120 to R124), which track a sector is found in and which entry is the
current one (R125 to R127), an Audio Tick at the end of a sector and the 588 of a sector (R129, R130, R290 to R296), and
the insertion of a disc (R132, R133, R345 to R347).
-/
namespace Sys2Proof.Machine

/-! ### Time codes (R120 to R124) -/

/-- Seconds and frames in range are what the divisions of `msfRaw` give back (R121, R124 (a)). -/
theorem msfRaw_fields (mm : Nat) {ss ff : Nat} (hs : ss < 60) (hf : ff < 75) :
    msfRaw ((mm * 60 + ss) * 75 + ff) = ⟨mm, ss, ff⟩ := by
  simp only [msfRaw, secPerMin, framesPerSec, Msf.mk.injEq]
  omega

/-- The round trip holds however many minutes there are (R124 (a)). -/
theorem toMsf_toSector (mm : Nat) {ss ff : Nat} (hs : ss < 60) (hf : ff < 75) :
    toMsf (toSector mm ss ff) = some ⟨mm, ss, ff⟩ := by
  have hsector : toSector mm ss ff = (((mm * 60 + ss) * 75 + ff : Nat) : Int) - 150 := rfl
  rw [toMsf_of_ge (by omega), hsector, Int.sub_add_cancel, Int.toNat_natCast, msfRaw_fields mm hs hf]

/-- From the lead-in on a sector has a time code with fields in range that leads back to it (R124 (b)). -/
theorem exists_toMsf {n : Int} (h : -150 ≤ n) :
    ∃ c, toMsf n = some c ∧ c.s < 60 ∧ c.f < 75 ∧ toSector c.m c.s c.f = n := by
  refine ⟨_, toMsf_of_ge h, Nat.mod_lt _ (by decide), Nat.mod_lt _ (by decide), ?_⟩
  rw [toSector_msfRaw]
  omega

/-- Settles O40: both directions are division with remainder by 60 and 75, from the start of the lead-in. -/
theorem timeCodeRoundTrip : Obligations.TimeCodeRoundTrip :=
  ⟨fun mm _ _ _ hs hf => toMsf_toSector mm hs hf, fun _ h => exists_toMsf h, fun _ h => toMsf_none_iff.mpr h,
    fun _ h => pairValue_bcd h⟩

/-! ### Which track a sector is found in (R126, R127) -/

theorem Disc.ok_table {d : Disc} (h : d.ok = true) : tableFrom 1 0 d.table = true := by
  cases hp : d.present with
  | false => rw [Disc.ok_absent h hp]; rfl
  | true =>
    obtain ⟨-, -, htab, -⟩ := Disc.ok_present h hp
    exact htab

/-- No track of a good table starts before an earlier one ends (R43 (c)). -/
theorem tableFrom_pairwise {n start : Nat} {l : List TrackEntry} (h : tableFrom n start l = true) :
    l.Pairwise (fun a b => a.endSector ≤ b.startSector) := by
  induction l generalizing n start with
  | nil => exact .nil
  | cons x l ih =>
    simp only [tableFrom, Bool.and_eq_true] at h
    obtain ⟨-, hrest⟩ := h
    refine .cons (fun e he => ?_) (ih hrest)
    obtain ⟨k, hk⟩ := List.mem_iff_getElem?.mp he
    obtain ⟨-, -, -, -, hstart⟩ := tableFrom_getElem? hrest hk
    exact hstart

/-- The first track of a good table starts where the table does (R43 (b)). -/
theorem tableFrom_start {n start : Nat} {l : List TrackEntry} {e : TrackEntry} (h : tableFrom n start l = true)
    (he : l[0]? = some e) : e.startSector = start := by
  cases l with
  | nil => cases he
  | cons x l =>
    cases he
    simp only [tableFrom, Bool.and_eq_true, beq_iff_eq] at h
    obtain ⟨⟨⟨⟨-, hstart⟩, -⟩, -⟩, -⟩ := h
    exact hstart

/-- A track of a good table starts where the one before it ends (R43 (c)). -/
theorem tableFrom_adjacent {n start k : Nat} {l : List TrackEntry} {e f : TrackEntry} (h : tableFrom n start l = true)
    (he : l[k]? = some e) (hf : l[k + 1]? = some f) : f.startSector = e.endSector := by
  induction l generalizing n start k with
  | nil => cases he
  | cons x l ih =>
    simp only [tableFrom, Bool.and_eq_true] at h
    obtain ⟨-, hrest⟩ := h
    cases k with
    | zero => cases he; exact tableFrom_start hrest hf
    | succ k => exact ih hrest he hf

/-- From sector 0 on the lookup is the scan of the table (R126). -/
theorem trackForSector_of_nonneg {s : State} {m : Int} (h : 0 ≤ m) :
    trackForSector s m = s.disc.table.find? (fun e => e.holds s.cfg.trackEndInclusive m) := if_neg (Int.not_lt.mpr h)

/-- Where the lookup misses: below sector 0, and past the last sector that the last track holds (R126, R127 (c)). -/
theorem trackForSector_eq_none_iff {s : State} {m : Int} (hd : s.disc.ok = true) (hp : s.disc.present = true) :
    trackForSector s m = none ↔
      m < 0 ∨ ¬ (m < s.disc.totalEnd ∨ s.cfg.trackEndInclusive = true ∧ m = s.disc.totalEnd) := by
  obtain ⟨hlen, hpos, htab, htot, -⟩ := Disc.ok_present hd hp
  rw [htot]
  by_cases hm : m < 0
  · exact iff_of_true (if_pos hm) (.inl hm)
  · rw [trackForSector_of_nonneg (by omega), List.find?_eq_none, or_iff_right hm]
    constructor
    · intro h hend
      obtain ⟨e, he, hh⟩ := tableFrom_covers htab (List.ne_nil_of_length_pos (by omega)) (by omega) hend
      exact h e he hh
    · intro h e he hh
      obtain ⟨-, hend⟩ := tableFrom_mem htab e he
      obtain ⟨-, hlt | ⟨hincl, heq⟩⟩ := TrackEntry.holds_iff.mp hh
      · exact h (.inl (by omega))
      · exact h (hend.lt_or_eq.imp (fun _ => by omega) fun _ => ⟨hincl, by omega⟩)

/-- A track that holds the sector is the one found, because all earlier tracks have ended there; only its start sector
is the earlier track's in the inclusive reading (R126, R127 (b)). -/
theorem trackForSector_of_mem {s : State} {e : TrackEntry} {m : Int} (hd : s.disc.ok = true) (he : e ∈ s.disc.table)
    (hstart : e.startSector < m ∨ s.cfg.trackEndInclusive = false ∧ m = e.startSector)
    (hend : m < e.endSector ∨ s.cfg.trackEndInclusive = true ∧ m = e.endSector) : trackForSector s m = some e := by
  have hle : (e.startSector : Int) ≤ m := by omega
  rw [trackForSector_of_nonneg (by omega), List.find?_eq_some_iff_append]
  obtain ⟨before, behind, hsplit⟩ := List.append_of_mem he
  refine ⟨TrackEntry.holds_iff.mpr ⟨hle, hend⟩, before, behind, hsplit, fun a ha => ?_⟩
  have hpair := tableFrom_pairwise (Disc.ok_table hd)
  rw [hsplit, List.pairwise_append] at hpair
  obtain ⟨-, -, hcross⟩ := hpair
  have hended : a.endSector ≤ e.startSector := hcross a ha e List.mem_cons_self
  rw [Bool.not_eq_true', ← Bool.not_eq_true, TrackEntry.holds_iff]
  rintro ⟨-, hlt | ⟨hincl, heq⟩⟩
  · omega
  · obtain hlt | ⟨hexcl, -⟩ := hstart
    · omega
    · rw [hincl] at hexcl
      cases hexcl

/-- Sector 0 is in the first track, if that has a sector or its end is inside (R126). -/
theorem trackForSector_zero {s : State} {e : TrackEntry} (hd : s.disc.ok = true) (he : s.disc.table[0]? = some e)
    (h : s.cfg.trackEndInclusive = true ∨ 0 < e.endSector) : trackForSector s 0 = some e := by
  have hstart := tableFrom_start (Disc.ok_table hd) he
  have hhold : e.holds s.cfg.trackEndInclusive 0 = true := by
    refine TrackEntry.holds_iff.mpr ⟨by omega, ?_⟩
    obtain h0 | hpos := Nat.eq_zero_or_pos e.endSector
    · exact .inr ⟨h.resolve_right (by omega), by omega⟩
    · exact .inl (by omega)
  obtain ⟨rest, htable⟩ : ∃ rest, s.disc.table = e :: rest :=
    List.head?_eq_some_iff.mp (List.head?_eq_getElem?.trans he)
  rw [trackForSector_of_nonneg le_rfl, htable]
  exact List.find?_cons_of_pos hhold

/-- Without a disc there is no track to find. -/
theorem trackForSector_absent {s : State} (hd : s.disc.ok = true) (hp : s.disc.present = false) (m : Int) :
    trackForSector s m = none := by
  rw [trackForSector, Disc.ok_absent hd hp]
  exact ite_self _

/-! ### The current entry (R125) -/

/-- A track number of the disc other than the sentinel names the current entry. -/
theorem curEntry_of_track {s : State} (hd : s.disc.ok = true) (hp : s.disc.present = true)
    (h1 : 1 ≤ s.play.track.val) (hn : s.play.track.val ≤ s.disc.numTracks) (hl : s.play.track ≠ leadoutNumber s.cfg) :
    ∃ e ∈ s.disc.table, e.number = s.play.track ∧ curEntry s = some e := by
  obtain ⟨hlen, -, htab, -⟩ := Disc.ok_present hd hp
  have hget := List.getElem?_eq_getElem (l := s.disc.table) (i := s.play.track.val - 1) (by omega)
  obtain ⟨hnum, -⟩ := tableFrom_getElem? htab hget
  refine ⟨_, List.mem_of_getElem? hget, Fin.ext (by omega), ?_⟩
  rw [curEntry, if_neg hl, trackEntry_of_getElem? hd h1 hget]

/-- On track 0, past the last track and on the sentinel there is no current entry (log 18). -/
theorem curEntry_eq_none {s : State}
    (h : s.play.track = 0 ∨ s.disc.numTracks < s.play.track.val ∨ s.play.track = leadoutNumber s.cfg) :
    curEntry s = none := by
  cases he : curEntry s with
  | none => rfl
  | some e =>
    obtain ⟨hlead, ⟨hfirst, hlast⟩, -⟩ := curEntry_some he
    obtain h0 | hpast | h := h
    · rw [h0] at hfirst; exact absurd hfirst (by decide)
    · omega
    · exact absurd h hlead

theorem curEntry_absent {s : State} (hd : s.disc.ok = true) (hp : s.disc.present = false) : curEntry s = none := by
  cases he : curEntry s with
  | none => rfl
  | some e =>
    obtain ⟨hpres, -⟩ := curEntry_onDisc hd he
    rw [hp] at hpres
    cases hpres

/-- Settles O41: the scan finds the one track that holds the sector when every track before it has ended. -/
theorem lookupFindsTheTrack : Obligations.LookupFindsTheTrack := by
  refine ⟨fun s m hd hp => ⟨?_, fun e he hlo hhi => trackForSector_of_mem hd he (.inl hlo) (.inl hhi)⟩,
    fun s hd hp => ⟨fun hi e he hlt => ?_, fun hi k e f he hf hlt => ?_, fun hx e he hlt => ?_,
      fun e he h => trackForSector_zero hd he h, fun h1 hn hl => curEntry_of_track hd hp h1 hn hl, curEntry_eq_none⟩,
    fun s hd hp => ⟨curEntry_absent hd hp, trackForSector_absent hd hp⟩⟩
  · rw [trackForSector_eq_none_iff hd hp]
    cases hi : s.cfg.trackEndInclusive with
    | false => simp
    | true =>
      simp only [true_and, if_true]
      omega
  · exact trackForSector_of_mem hd he (.inl (by omega)) (.inr ⟨hi, rfl⟩)
  · rw [tableFrom_adjacent (Disc.ok_table hd) he hf]
    exact trackForSector_of_mem hd (List.mem_of_getElem? he) (.inl (by omega)) (.inr ⟨hi, rfl⟩)
  · exact trackForSector_of_mem hd he (.inr ⟨hx, rfl⟩) (.inl (by omega))

/-! ### The Audio Tick at the end of a sector (R129, R130, R295, R296) -/

/-- On a sector's last sample, where a track holds the next sector, a tick enters that sector on that track (R295). -/
theorem stepSample_next {s : State} {e e2 : TrackEntry} (h : e.sectorSize ≤ s.play.sampleOffset + 4)
    (h2 : trackForSector s (s.play.sector + 1) = some e2) :
    stepSample e s
      = enterSector (s.play.sector + 1) (setTrack e2 (setSampleOffset (s.play.sampleOffset + 4) s)) := by
  have h2' : trackForSector (setSampleOffset (s.play.sampleOffset + 4) s) (s.play.sector + 1) = some e2 := h2
  simp only [stepSample, sampleBytes, setSampleOffset_play, if_pos h, advance, h2']

/-- On a sector's last sample, where no track holds the next sector, a tick enters LeadOut (R295, R296). -/
theorem stepSample_leadOut {s : State} {e : TrackEntry} (h : e.sectorSize ≤ s.play.sampleOffset + 4)
    (h2 : trackForSector s (s.play.sector + 1) = none) :
    stepSample e s = enterLeadOut (setSampleOffset (s.play.sampleOffset + 4) s) := by
  have h2' : trackForSector (setSampleOffset (s.play.sampleOffset + 4) s) (s.play.sector + 1) = none := h2
  simp only [stepSample, sampleBytes, setSampleOffset_play, if_pos h, advance, h2']

/-- In LeadOut the range of R36 leaves an offset where it stood at the sector size, if it is asked for (log 44). -/
theorem keepOffsetRange_leadOut {b t : State} (hs : t.play.status = .leadOut)
    (ho : t.play.sampleOffset = b.play.sampleOffset + 4) :
    keepOffsetRange b t = setSampleOffset (if b.cfg.offsetBounded = true ∧ b.play.sampleOffset = 2352
      then b.play.sampleOffset else b.play.sampleOffset + 4) t := by
  obtain ⟨hno, e⟩ | ⟨hb, h2352, -, -, e⟩ := keepOffsetRange_cases b t
  · have hcond : ¬ (b.cfg.offsetBounded = true ∧ b.play.sampleOffset = 2352) := fun ⟨hb, h2352⟩ =>
      hno ⟨hb, h2352, hs, by omega⟩
    rw [e, if_neg hcond, ← ho]
    rfl
  · rw [e, if_pos ⟨hb, h2352⟩, h2352]

/-- A step that takes an Audio Tick which reads (R290). -/
theorem step_audioTick {s : State} {e : TrackEntry} {io : TrackIo} {rest : List Event}
    (hi : s.inputs = .audioTick io :: rest) (hp : s.play.status = .playing) (he : curEntry s = some e)
    (ht : e.type = .audio) :
    step s = .next (keepOffsetRange (takeEvent rest s)
      (emitSample (samplePair (readSample e io s)) (stepSample e (takeEvent rest s)))) := by
  have hentry : audioEntry (takeEvent rest s) = some e := audioEntry_of_playing hp he ht
  rw [step_event hi, runEvent, audioEvent, audioTick_of_entry hentry]
  rfl

/-- Settles O53: the tick is `enterLeadOut` with 4 more, and the range of R36 after it. -/
theorem audioTickEntersLeadOutPastTheLastTrack : Obligations.AudioTickEntersLeadOutPastTheLastTrack := by
  intro s e io rest hi hp he ht hsize hmiss
  have hlead : stepSample e (takeEvent rest s)
      = enterLeadOut (setSampleOffset (s.play.sampleOffset + 4) (takeEvent rest s)) := stepSample_leadOut hsize hmiss
  rw [step_audioTick hi hp he ht, hlead, keepOffsetRange_leadOut rfl rfl]
  exact ⟨_, rfl⟩

/-! ### The 588 samples of a sector (R290, R292, R294) -/

/-- The state some samples into a sector: `q` waits, `o` was emitted last, and of the block only `sampleOffset` has
moved. -/
def afterSamples (s : State) (k : Nat) (q : List Event) (o : List Output) : State :=
  { s with inputs := q, outputs := o, play := { s.play with sampleOffset := 4 * k } }

theorem afterSamples_zero {s : State} (h : s.play.sampleOffset = 0) : afterSamples s 0 s.inputs s.outputs = s := by
  have hplay : { s.play with sampleOffset := 4 * 0 } = s.play := by rw [Nat.mul_zero, ← h]
  rw [afterSamples, hplay]

/-- A sample before the sector's last only moves the offset on, whatever the read answers (R290, R294). -/
theorem step_afterSamples {s : State} {e : TrackEntry} {k : Nat} {io : TrackIo} {q : List Event} {o : List Output}
    (hp : s.play.status = .playing) (he : curEntry s = some e) (ht : e.type = .audio)
    (hk : 4 * k + 4 < e.sectorSize) :
    ∃ o', step (afterSamples s k (.audioTick io :: q) o) = .next (afterSamples s (k + 1) q o') := by
  obtain ⟨t, hstep, -, -, -, -, hwithin⟩ := audioTickEmitsTheSamplesAtItsPosition
    (afterSamples s k (.audioTick io :: q) o) e io q _ rfl hp he ht rfl
  refine ⟨t.outputs, ?_⟩
  rw [hstep, hwithin hk]
  rfl

/-- `k` Audio Ticks from the start of a sector, short of its last sample (R292). -/
theorem run_afterSamples {s : State} {e : TrackEntry} {ios : List TrackIo} {rest : List Event}
    (hp : s.play.status = .playing) (he : curEntry s = some e) (ht : e.type = .audio) (ho : s.play.sampleOffset = 0)
    (hi : s.inputs = ios.map .audioTick ++ rest) {k : Nat} (hk : k ≤ ios.length) (hsize : 4 * k < e.sectorSize) :
    ∃ o, core.run k s = .next (afterSamples s k ((ios.drop k).map .audioTick ++ rest) o) := by
  induction k with
  | zero => exact ⟨s.outputs, by rw [List.drop_zero, ← hi, afterSamples_zero ho]; rfl⟩
  | succ k ih =>
    obtain ⟨o, hrun⟩ := ih (by omega) (by omega)
    rw [List.drop_eq_getElem_cons hk, List.map_cons, List.cons_append] at hrun
    obtain ⟨o', hstep⟩ := step_afterSamples hp he ht hsize
    exact ⟨o', core_run_succ hrun hstep⟩

/-- The sector's last sample enters the next sector on the track that holds it, and `DM` follows a change
of track (R129, R295). -/
theorem step_lastSample {s : State} {e e2 : TrackEntry} {io : TrackIo} {rest : List Event}
    (hi : s.inputs = .audioTick io :: rest) (hp : s.play.status = .playing) (he : curEntry s = some e)
    (ht : e.type = .audio) (hsize : e.sectorSize ≤ s.play.sampleOffset + 4)
    (h2 : trackForSector s (s.play.sector + 1) = some e2) :
    ∃ t, step s = .next t ∧ t.inputs = rest ∧ t.stat = s.stat
      ∧ t.play = { s.play with sector := s.play.sector + 1, track := e2.number, sampleOffset := 0 }
      ∧ (e2.number = s.play.track → t.control = s.control)
      ∧ (e2.number ≠ s.play.track → s.cfg.dmBit < 16 → dm t = dmOfType s.cfg e2.type) := by
  have hnext : stepSample e (takeEvent rest s) = enterSector (s.play.sector + 1)
      (setTrack e2 (setSampleOffset (s.play.sampleOffset + 4) (takeEvent rest s))) := stepSample_next hsize h2
  have hstatus : (stepSample e (takeEvent rest s)).play.status ≠ .leadOut := by
    rw [hnext, enterSector_play, setTrack_play, setSampleOffset_play, takeEvent_play, hp]
    decide
  refine ⟨emitSample (samplePair (readSample e io s)) (stepSample e (takeEvent rest s)), ?_, ?_, ?_, ?_,
    fun hsame => ?_, fun hne hdm => ?_⟩
  · rw [step_audioTick hi hp he ht, keepOffsetRange_of_ne_leadOut]
    exact hstatus
  · exact stepSample_inputs e _
  · exact stepSample_stat e _
  · rw [hnext, emitSample, emit_play, enterSector_play, setTrack_play]
    rfl
  · have hcur : e2.number = (setSampleOffset (s.play.sampleOffset + 4) (takeEvent rest s)).play.track := hsame
    rw [hnext, setTrack_self hcur]
    rfl
  · rw [hnext]
    exact dm_setTrack (s := setSampleOffset _ (takeEvent rest s)) hne hdm

theorem dmOfType_eq (c : Config) (t : TrackType) : dmOfType c t = if t = .data then c.dmData else !c.dmData := by
  cases t <;> rfl

/-- Settles O52: 587 samples only move the offset, and the last one enters the next sector. -/
theorem audioSectorTakes588Ticks : Obligations.AudioSectorTakes588Ticks := by
  intro s e e2 ios rest hp he ht hsize ho h2 hlen hi
  have hrun {k : Nat} (hk : k < 588) := run_afterSamples hp he ht ho hi (k := k) (by omega) (by omega)
  refine ⟨fun k hk => ?_, ?_⟩
  · obtain ⟨o, hk⟩ := hrun hk
    exact ⟨_, hk, rfl⟩
  · obtain ⟨o, h587⟩ := hrun (show 587 < 588 by decide)
    rw [List.drop_eq_getElem_cons (by omega), List.drop_eq_nil_of_le hlen.le] at h587
    obtain ⟨t, hstep, hin, hstat, hplay, hsame, hne⟩ :=
      step_lastSample (s := afterSamples s 587 (.audioTick ios[587] :: rest) o) rfl hp he ht hsize.le h2
    refine ⟨t, core_run_succ h587 hstep, hin, hstat, ?_, hsame, dmOfType_eq s.cfg e2.type ▸ hne⟩
    rw [hplay, ← ho]
    rfl

/-! ### The insertion of a disc (R132, R133, R345 to R347) -/

theorem countable_iff {ts : List TrackSource} : countable ts = true ↔ ts ≠ [] ∧ ts.length ≤ 255 := by
  simp only [countable, Bool.and_eq_true, decide_eq_true_eq, Nat.one_le_iff_ne_zero, List.length_eq_zero_iff, ne_eq,
    Nat.lt_succ_iff]

theorem wholeSectors_iff {t : TrackSource} : wholeSectors t = true ↔ t.lenBytes % 2352 = 0 := beq_iff_eq

theorem longEnough_iff {t : TrackSource} : longEnough t = true ↔ 150 * 2352 ≤ t.lenBytes :=
  decide_eq_true_iff.trans (Nat.le_div_iff_mul_le (by decide))

/-- Which raw images are acceptable (R133). -/
theorem acceptable_binCue_iff {ts : List TrackSource} : acceptable .binCue ts = true ↔
    ts ≠ [] ∧ ts.length ≤ 255 ∧ ∀ t ∈ ts, t.lenBytes % 2352 = 0 ∧ 150 * 2352 ≤ t.lenBytes := by
  simp only [acceptable, Bool.and_eq_true, countable_iff, List.all_eq_true, wholeSectors_iff, longEnough_iff, and_assoc]

/-- Which ISO images are acceptable (R133). -/
theorem acceptable_iso_iff {ts : List TrackSource} : acceptable .iso ts = true ↔
    ts ≠ [] ∧ ts.length ≤ 255 ∧ ∀ t ∈ ts.dropLast, t.lenBytes % 2352 = 0 := by
  simp only [acceptable, Bool.and_eq_true, countable_iff, List.all_eq_true, wholeSectors_iff, and_assoc]

/-- Entry `k` of the table built is made of track `k` of the image, whatever stands before it (R132). -/
theorem buildTable_data {n start k : Nat} {ts : List TrackSource} {t : TrackSource} {e : TrackEntry}
    (ht : ts[k]? = some t) (he : (buildTable n start ts)[k]? = some e) : e.data = Memory.ofCells t.lenBytes t.cells := by
  induction ts generalizing n start k with
  | nil => cases ht
  | cons u us ih =>
    cases k with
    | zero => cases ht; cases he; rfl
    | succ k => exact ih ht he

theorem insertDisc_accepted {kind : DiscKind} {ts : List TrackSource} {s : State} (hp : s.disc.present = false)
    (h : acceptable kind ts = true) : insertDisc (.image kind ts) s = .next (insertOk kind ts s) := by
  simp only [insertDisc, hp, Bool.false_eq_true, if_false, if_pos h]

theorem insertDisc_rejected {p : DiscPayload} {s : State} (hp : s.disc.present = false)
    (h : p = .loadError ∨ ∃ kind ts, p = .image kind ts ∧ acceptable kind ts = false) :
    insertDisc p s = .next (insertFailed s) := by
  obtain rfl | ⟨kind, ts, rfl, hno⟩ := h
  · simp only [insertDisc, hp, Bool.false_eq_true, if_false]
  · simp only [insertDisc, hp, hno, Bool.false_eq_true, if_false]

theorem insertDisc_present {p : DiscPayload} {s : State} (hp : s.disc.present = true) :
    insertDisc p s = .refused .discAlreadyPresent := if_pos hp

/-- Settles O59: the disc of an accepted image is `loadDisc`, whose table is built track by track. -/
theorem insertDiscLoadsOrFails : Obligations.InsertDiscLoadsOrFails := by
  refine ⟨fun ts => ⟨rfl, acceptable_binCue_iff, acceptable_iso_iff⟩, fun s kind ts rest hi hp ha => ?_,
    fun s p rest hi hp hno => ?_, fun s p rest hi hp => ?_⟩
  · obtain ⟨hcount, -⟩ := acceptable_countable ha
    have htotal : (loadDisc kind ts).totalEnd = (ts.map (fun t => t.lenBytes / 2352)).sum :=
      (lastEnd_buildTable 1 0 (List.ne_nil_of_length_pos hcount)).trans (Nat.zero_add _)
    refine ⟨loadDisc kind ts, ?_, loadDisc_ok ha, rfl, rfl, rfl, buildTable_map_type 1 0 ts,
      buildTable_map_lenBytes 1 0 ts, htotal, fun k t e ht he a => ?_⟩
    · rw [step_event hi]
      exact insertDisc_accepted hp ha
    · rw [buildTable_data ht he, Memory.read_ofCells]
  · rw [step_event hi]
    exact insertDisc_rejected hp hno
  · rw [step_event hi]
    exact insertDisc_present hp

end Sys2Proof.Machine
end

section
/-!
PROOFS. 41_latch_checksum_dispatch.md: the checksum (R152, R153), the packet that the trigger executes (R154, R155,
R158), what a command writes and keeps (R157, R159), and who enters LeadOut (R160).
-/
namespace Sys2Proof

/-! ### The checksum (R152, R153) -/

/-- The plain sum of a bank's ten nibbles. -/
def nibbleSum (p : Bank) : Nat :=
  p.n0.toNat + p.n1.toNat + p.n2.toNat + p.n3.toNat + p.n4.toNat + p.n5.toNat + p.n6.toNat + p.n7.toNat
    + p.n8.toNat + p.n9.toNat

/-- The checksum as a number (R152). -/
theorem chk_toNat (p : Bank) : (chk p).toNat = 15 - (p.n0.toNat + p.n1.toNat + p.n2.toNat + p.n3.toNat + p.n4.toNat
    + p.n5.toNat + p.n6.toNat + p.n7.toNat + p.n8.toNat) % 16 := by
  simp [chk]

theorem validate_iff {p : Bank} : validate p = true ↔ chk p = p.n9 := beq_iff_eq

/-- The sum tells a valid bank (R153). -/
theorem validate_iff_nibbleSum {p : Bank} : validate p = true ↔ nibbleSum p % 16 = 15 := by
  rw [validate_iff, ← BitVec.toNat_inj, chk_toNat, nibbleSum]
  have := p.n9.isLt
  omega

/-- Changing one nibble changes the sum by the difference. -/
theorem nibbleSum_set (p : Bank) (i : Fin 10) (v : Nib) :
    nibbleSum (Machine.Bank.set p i v) + (Machine.Bank.get p i).toNat = nibbleSum p + v.toNat := by
  fin_cases i <;> simp only [nibbleSum, Machine.Bank.set, Machine.Bank.get] <;> omega

/-- Two nibbles are less than 16 apart, so that one change cannot keep the sum modulo 16 (R153). -/
theorem validate_set_of_ne {p : Bank} {i : Fin 10} {v : Nib} (hp : validate p = true)
    (hv : v ≠ Machine.Bank.get p i) : validate (Machine.Bank.set p i v) = false := by
  rw [← Bool.not_eq_true, validate_iff_nibbleSum]
  intro hset
  rw [validate_iff_nibbleSum] at hp
  have hsum := nibbleSum_set p i v
  have hlt := v.isLt
  have hlt' := (Machine.Bank.get p i).isLt
  exact hv (BitVec.eq_of_toNat_eq (by omega))

/-- Settles O4: the checksum as a number turns validity into a statement about the sum of the nibbles. -/
theorem oneChangedNibbleIsDetected : Obligations.OneChangedNibbleIsDetected :=
  ⟨chk_toNat, Machine.validate_sealBank, fun _ => validate_iff_nibbleSum, fun _ _ _ => validate_set_of_ne⟩

end Sys2Proof

namespace Sys2Proof.Machine

/-! ### The packet that the trigger executes (R154, R155, R158) -/

/-- An executed packet with a wrong checksum is the checksum error response, and the status checksum after it (R155). -/
theorem execute_of_invalid {s : State} (h : validate s.cmd = false) :
    execute s = .next (sealReply (raiseChecksumError s)) := by
  simp [execute, runPacket, decode, h, andThen]

/-- Settles O5: the trigger write is one execution of the packet, which is its command and then the checksum. -/
theorem stepRunsTheDecodedInstruction : Obligations.StepRunsTheDecodedInstruction := by
  intro s v rest i hi hd
  rw [step_trigger hi]
  exact execute_of_decode hd

/-- Settles O6: the trigger write is one execution of the packet, which is the checksum error response. -/
theorem wrongChecksumIsReported : Obligations.WrongChecksumIsReported := by
  intro s v rest hi hv
  rw [step_trigger hi]
  exact ⟨_, execute_of_invalid hv, rfl, rfl⟩

/-- The last act of an executed packet is the status checksum (R158). -/
theorem validate_of_execute {s t : State} (h : execute s = .next t) : validate t.stat = true := by
  obtain ⟨u, e, hu⟩ | ⟨-, e⟩ := execute_result s <;> rw [h] at e <;> cases e
  obtain ⟨_, _, _, rfl, hvalid, -⟩ := hu
  exact hvalid

/-- Settles O8: an executed packet is sealed last, and the frame of each event gives the second clause. -/
theorem everyReplyIsSealed : Obligations.EveryReplyIsSealed := by
  refine ⟨fun s t h => ?_, fun s t e rest hi he h => ?_⟩
  · have hvalid := validate_of_execute h
    exact ⟨(validate_iff.mp hvalid).symm, hvalid⟩
  · rw [step_event hi] at h
    obtain rfl | ⟨io, rfl⟩ | ⟨p, rfl⟩ | rfl := he <;>
      exact (runEvent_stat h nofun nofun nofun).trans (takeEvent_stat s rest)

/-! ### What a command writes and keeps (R157, R159) -/

/-- A command that completes writes the reply but for its checksum, the playback state and the draws. -/
theorem exec_next {i : Instr} {s t : State} (h : exec i s = .next t) : CommandNext s t := by
  obtain ⟨u, e, hu⟩ | ⟨-, e⟩ := exec_result i s <;> rw [h] at e <;> cases e
  exact hu

theorem CommandMove.track {c : Config} {p q : Playback} (h : CommandMove c p q) : q.track = p.track := by
  cases h <;> rfl

theorem CommandMove.tocReadDone {c : Config} {p q : Playback} (h : CommandMove c p q) :
    q.tocReadDone = p.tocReadDone := by
  cases h <;> rfl

/-- The window shows nothing of the playback state and the draws, and of two status banks with one checksum nibble it
shows the difference in `STAT[0..8]` only (R61, R70). -/
theorem readByte_withReply (s : State) {st : Bank} (q : Playback) (n : Nat) {a : Nat} (h9 : st.n9 = s.stat.n9)
    (ha : ∀ k : Fin 9, a ≠ offStat0 s.cfg + k) :
    readByte { s with stat := st, play := q, draws := n } a = readByte s a := by
  unfold readByte
  dsimp only
  cases ht : target s.cfg a with
  | stat j =>
    have hj : j = 9 := by
      by_contra hne
      exact ha ⟨j, by omega⟩ (target_stat_inj ht)
    subst hj
    simp only [Bank.get, h9]
  | _ => rfl

/-- Settles O22: what a command may write is known, and the window shows no more of it than `STAT[0..8]`. -/
theorem commandFrame : Obligations.CommandFrame := by
  intro i s t h
  obtain ⟨st, q, n, rfl, h9, hq⟩ := exec_next h
  exact ⟨rfl, rfl, rfl, rfl, rfl, rfl, h9, hq.track, hq.tocReadDone, fun a => readByte_withReply s q n h9,
    fun _ _ => rfl⟩

theorem buildAbs_play {s t : State} (h : buildAbs s = .next t) : t.play = s.play := by
  obtain ⟨m, -, e⟩ | ⟨-, e⟩ := buildAbs_cases s <;> rw [h] at e <;> cases e
  rfl

theorem repeatReport_play {s t : State} (h : repeatReport s = .next t) : t.play = s.play := by
  unfold repeatReport at h
  split at h
  · exact buildAbs_play h
  split at h
  · cases h; rfl
  split at h
  · cases h; rfl
  split at h <;> cases h <;> rfl

theorem execDriveStatus_play {s t : State} (h : execDriveStatus s = .next t) : t.play = s.play := by
  unfold execDriveStatus at h
  split at h
  · exact repeatReport_play (s := refreshStatus s) h
  · cases h; rfl

theorem execRequestTstart_play {t10 t1 : Nib} {s t : State} (h : execRequestTstart t10 t1 s = .next t) :
    t.play = s.play := by
  unfold execRequestTstart at h
  split at h <;> cases h <;> rfl

/-- What each command does to the playback state: nothing, the entry of a status, or a seek (R157, R159). -/
theorem exec_play_cases {i : Instr} {s t : State} (h : exec i s = .next t) :
    t.play = s.play
    ∨ (i ∈ [.stop, .pause, .play, .forward, .reverse, .trackSkip, .doorClose, .doorOpen]
        ∧ ∃ st, t.play = { s.play with status := st })
    ∨ (∃ a b c d e f, i = .seekPlay a b c d e f)
    ∨ (∃ a b c d e f, i = .seekPause a b c d e f) := by
  cases i with
  | driveStatus => exact .inl (execDriveStatus_play h)
  | requestAbs => exact .inl (buildAbs_play (s := refreshStatus s) h)
  | requestTstart a b => exact .inl (execRequestTstart_play h)
  | requestRel | requestTrack | requestTotal | requestTracks | requestError | requestUnassigned7
  | requestUnassigned8F | trackCue | unassigned5 | unassignedE | unassignedF => cases h; exact .inl rfl
  | stop | pause | play | forward | reverse | trackSkip | doorClose | doorOpen =>
    cases h; exact .inr (.inl ⟨by decide, _, rfl⟩)
  | seekPlay a b c d e f => exact .inr (.inr (.inl ⟨a, b, c, d, e, f, rfl⟩))
  | seekPause a b c d e f => exact .inr (.inr (.inr ⟨a, b, c, d, e, f, rfl⟩))

/-- Settles O23: a status entry writes the status alone, and no report or unsupported command enters one. -/
theorem whichCommandsKeepThePlaybackState : Obligations.WhichCommandsKeepThePlaybackState := by
  intro i s t h
  obtain e | ⟨hi, st, e⟩ | ⟨a, b, c, d, e, f, rfl⟩ | ⟨a, b, c, d, e, f, rfl⟩ := exec_play_cases h
  · exact ⟨fun _ _ => by rw [e], fun _ => e⟩
  · refine ⟨fun _ _ => by rw [e], fun hk => ?_⟩
    obtain rfl | rfl | rfl | rfl | rfl | rfl | ⟨_, _, rfl⟩ | rfl | rfl | ⟨_, rfl⟩ | rfl | rfl | rfl | rfl :=
      hk <;> simp at hi
  · exact ⟨fun hp _ => absurd rfl (hp a b c d e f), by simp⟩
  · exact ⟨fun _ hp => absurd rfl (hp a b c d e f), by simp⟩

/-! ### Who writes `latency` (R159, R245, R264, R270) -/

/-- An executed packet leaves `latency`, or is a seek (R159, R245). -/
theorem execute_latency {s t : State} (h : execute s = .next t) : t.play.latency = s.play.latency
    ∨ (∃ a b c d f g, decode s.cfg s.cmd = .ok (.seekPlay a b c d f g))
    ∨ (∃ a b c d f g, decode s.cfg s.cmd = .ok (.seekPause a b c d f g)) := by
  cases hv : validate s.cmd with
  | false =>
    rw [execute_of_invalid hv] at h
    cases h
    exact .inl rfl
  | true =>
    have hd := decode_of_valid hv s.cfg
    rw [execute_of_decode hd] at h
    cases hx : exec (decodeFields s.cfg s.cmd) s with
    | fault r => cases r
    | refused r => rw [hx] at h; cases h
    | next u =>
      rw [hx] at h
      cases h
      rw [sealReply_play, hd]
      obtain e | ⟨-, st, e⟩ | ⟨a, b, c, d, f, g, e⟩ | ⟨a, b, c, d, f, g, e⟩ := exec_play_cases hx
      · exact .inl (by rw [e])
      · exact .inl (by rw [e])
      · exact .inr (.inl ⟨a, b, c, d, f, g, by rw [e]⟩)
      · exact .inr (.inr ⟨a, b, c, d, f, g, by rw [e]⟩)

/-- A bus write leaves `latency`, or executes a seek (R154, R159). -/
theorem busWrite_latency {off : Nat} {n : Size} {v : Long} {s t : State} (h : busWrite off n v s = .next t) :
    t.play.latency = s.play.latency
    ∨ (∃ a b c d f g, (Event.busWrite off n v).executes s = some (.seekPlay a b c d f g))
    ∨ (∃ a b c d f g, (Event.busWrite off n v).executes s = some (.seekPause a b c d f g)) := by
  obtain ⟨hm, hb⟩ := busWrite_next h
  cases hb with
  | quiet _ hq =>
    obtain ⟨_, _, rfl, -⟩ := hq
    exact .inl rfl
  | executed hl hu hc he hq =>
    obtain ⟨_, _, rfl, -⟩ := hu
    obtain ⟨_, _, rfl, -⟩ := hq
    have hcov := (mem_busBytes_trigger s.cfg off n v).mp hl
    have hseek := execute_latency he
    simp only [executes_busWrite_iff, hm, hcov, true_and, ← hc]
    exact hseek

theorem pollTick_latency (s : State) : (pollTick s).play.latency
    = if ticking s = true ∧ s.play.status = .seeking then s.play.latency - 1 else s.play.latency := by
  cases ht : ticking s with
  | false => simp [pollTick_disabled ht]
  | true => simp [pollTick_enabled ht, pollArm_latency]

theorem audioEvent_latency (io : TrackIo) (s : State) : (audioEvent io s).play.latency = s.play.latency := by
  rw [audioEvent, keepOffsetRange_latency]
  obtain e | ⟨e, -, he⟩ := audioTick_play io s
  · rw [e]
  · rw [he, stepSample_latency]

/-- Settles O19, by what each of the events does to `latency`. -/
theorem whoWritesLatency : Obligations.WhoWritesLatency := by
  intro s t e rest hi h
  rw [step_event hi] at h
  refine ⟨?_, ?_, ?_⟩
  · rintro rfl
    cases h
    exact pollTick_latency (takeEvent rest s)
  · rintro off n v rfl
    simpa using busWrite_latency h
  · rintro (⟨off, n, rfl⟩ | ⟨io, rfl⟩ | rfl)
    · rw [busRead_next h, emit_play, takeEvent_play]
    · cases h
      exact audioEvent_latency io (takeEvent rest s)
    · cases h
      rfl

/-! ### Who enters LeadOut (R160) -/

theorem CommandMove.status_ne_leadOut {c : Config} {p q : Playback} (h : CommandMove c p q)
    (hp : p.status ≠ .leadOut) : q.status ≠ .leadOut := by
  cases h with
  | stay => exact hp
  | enter st hst => rintro rfl; exact absurd hst (by decide)
  | seek => exact nofun

/-- No command enters LeadOut, nor does the checksum error response (R160). -/
theorem busWrite_status_ne_leadOut {off : Nat} {n : Size} {v : Long} {s t : State}
    (h : busWrite off n v s = .next t) (hs : s.play.status ≠ .leadOut) : t.play.status ≠ .leadOut := by
  obtain ⟨-, -, -, -, -, -, hplay⟩ := (busWrite_next h).2.facts
  obtain hmove | hplay := hplay
  · exact hmove.status_ne_leadOut hs
  · rw [hplay]; exact nofun

theorem insertDisc_status_ne_leadOut {p : DiscPayload} {s t : State} (h : insertDisc p s = .next t)
    (hs : s.play.status ≠ .leadOut) : t.play.status ≠ .leadOut := by
  obtain ⟨_, _, rfl⟩ | rfl := insertDisc_next h
  · exact nofun
  · exact hs

/-- In the statuses that a Polling Tick does not end by a lookup it does not enter LeadOut (R262 to R268). -/
theorem pollTick_enters_leadOut {s : State} (h : (pollTick s).play.status = .leadOut)
    (hs : s.play.status ≠ .leadOut) :
    s.play.status = .readingToc ∨ s.play.status = .seeking ∨ s.play.status = .playing := by
  cases ht : ticking s with
  | false => rw [pollTick_disabled ht] at h; exact absurd h hs
  | true =>
    rw [pollTick_enabled ht] at h
    obtain ⟨-, e⟩ | ⟨hst, -⟩ | ⟨hst, -⟩ | ⟨hst, -⟩ | e :=
      pollArm_cases { s with outputs := s.outputs ++ pollOutputs s }
    · rw [e] at h; cases h
    · exact .inl hst
    · exact .inr (.inl hst)
    · exact .inr (.inr hst)
    · rw [e] at h; exact absurd h hs

theorem audioEntry_playing {s : State} {e : TrackEntry} (h : audioEntry s = some e) : s.play.status = .playing := by
  unfold audioEntry at h
  split at h
  · assumption
  · cases h

@[simp] theorem keepOffsetRange_status (b t : State) : (keepOffsetRange b t).play.status = t.play.status := by
  unfold keepOffsetRange; split <;> rfl

/-- An Audio Tick changes the status in Playing only (R290, R291). -/
theorem audioEvent_status {io : TrackIo} {s : State} (hs : s.play.status ≠ .playing) :
    (audioEvent io s).play.status = s.play.status := by
  rw [audioEvent, keepOffsetRange_status]
  obtain e | ⟨e, he, -⟩ := audioTick_play io s
  · rw [e]
  · exact absurd (audioEntry_playing he) hs

/-- The events that enter LeadOut (R160). -/
theorem runEvent_enters_leadOut {e : Event} {s t : State} (h : runEvent e s = .next t)
    (ht : t.play.status = .leadOut) (hs : s.play.status ≠ .leadOut) :
    (e = .pollTick ∧ (s.play.status = .readingToc ∨ s.play.status = .seeking ∨ s.play.status = .playing))
    ∨ ((∃ io, e = .audioTick io) ∧ s.play.status = .playing)
    ∨ (∃ v, e = .restoreState v) := by
  cases e with
  | pollTick => cases h; exact .inl ⟨rfl, pollTick_enters_leadOut ht hs⟩
  | audioTick io =>
    cases h
    refine .inr (.inl ⟨⟨io, rfl⟩, ?_⟩)
    by_contra hne
    exact hs (audioEvent_status hne ▸ ht)
  | restoreState v => exact .inr (.inr ⟨v, rfl⟩)
  | busWrite off n v => exact absurd ht (busWrite_status_ne_leadOut h hs)
  | insertDisc p => exact absurd ht (insertDisc_status_ne_leadOut h hs)
  | busRead off n => rw [busRead_next h] at ht; exact absurd ht hs
  | saveState => cases h; exact absurd ht hs
  | eject | reset => cases h; cases ht

/-- Settles O21: taking the event off the queue leaves the status, and each event enters LeadOut or does not. -/
theorem leadOutIsEnteredByTicks : Obligations.LeadOutIsEnteredByTicks := by
  intro s t e rest hi h ht hs
  rw [step_event hi] at h
  exact runEvent_enters_leadOut (s := takeEvent rest s) h ht hs

end Sys2Proof.Machine
end

section
/-!
PROOFS. 42_commands_simple.md: the commands without operands. What the entry of a status, the closing of the tray and an
unsupported command leave (R183 to R196, R223), and which report DriveStatus repeats (R180 to R182).
-/
namespace Sys2Proof.Machine

/-! ### The effects that the rows share, written out -/

/-- Everything the entry of a status leaves (R185, R186, R187, R192, R193). -/
theorem enterStatus_eq (st : Status) (s : State) : enterStatus st s = { s with
    play := { s.play with status := st }, stat := { s.stat with n0 := statusCode s.cfg st } } := rfl

/-- Everything the closing of the tray leaves (R104, R183, R190). -/
theorem closeTray_eq (s : State) : closeTray s = { s with
    play := { s.play with status := if s.disc.present = true then .readingToc else .noDisc },
    stat := ⟨statusCode s.cfg .stopped, 0, 0, 0, 0, 0, 0, 0, 0, s.stat.n9⟩ } := rfl

/-- Everything the entry of a status with a cleared payload leaves (R104, R191). -/
theorem clearPayload_enterStatus_eq (st : Status) (s : State) : clearPayload (enterStatus st s) = { s with
    play := { s.play with status := st },
    stat := ⟨statusCode s.cfg st, 0, 0, 0, 0, 0, 0, 0, 0, s.stat.n9⟩ } := rfl

/-- Everything an unsupported command leaves (R312). -/
theorem unsupported_eq (s : State) :
    unsupported s = { s with stat := { s.stat with n0 := statusCode s.cfg s.play.status } } := rfl

/-- Settles O24: the code of a command names it, and both commands enter Paused. -/
theorem pauseAndTrackSkipPause : Obligations.PauseAndTrackSkipPause :=
  ⟨fun _ _ hc hv => decode_of_cmdCode hc hv .pause, fun _ _ hc hv => decode_of_cmdCode hc hv .trackSkip,
    fun s => congrArg Host.Outcome.next (enterStatus_eq .paused s),
    fun s => congrArg Host.Outcome.next (enterStatus_eq .paused s)⟩

/-- Settles O25: the three commands are entries of a status. -/
theorem playForwardReverseEnterTheirStatus : Obligations.PlayForwardReverseEnterTheirStatus := fun s =>
  ⟨congrArg Host.Outcome.next (enterStatus_eq .playing s), congrArg Host.Outcome.next (enterStatus_eq .scanning s),
    congrArg Host.Outcome.next (enterStatus_eq .scanning s)⟩

/-- Settles O26: Stop and DoorClose close the tray, DoorOpen enters its status and clears the payload. -/
theorem stopAndDoorResults : Obligations.StopAndDoorResults := fun s =>
  ⟨congrArg Host.Outcome.next (closeTray_eq s), congrArg Host.Outcome.next (closeTray_eq s),
    congrArg Host.Outcome.next (clearPayload_enterStatus_eq .doorOpened s)⟩

/-- Settles O27: each of the six rows has the effect `unsupported`. -/
theorem unsupportedCommandsRefreshTheStatus : Obligations.UnsupportedCommandsRefreshTheStatus := by
  intro i s h
  have hrow : exec i s = .next (unsupported s) := by
    obtain rfl | rfl | rfl | rfl | rfl | ⟨a, rfl⟩ := h <;> rfl
  rw [hrow, unsupported_eq]

/-! ### DriveStatus (R180 to R182) -/

/-- While more than 3 ticks of latency are left DriveStatus does nothing (R180). -/
theorem exec_driveStatus_silent {s : State} (h : 3 < s.play.latency) : exec .driveStatus s = .next s :=
  if_neg (Nat.not_le.mpr h)

/-- With at most 3 ticks left DriveStatus refreshes the status and repeats a report (R180). -/
theorem exec_driveStatus_due {s : State} (h : s.play.latency ≤ 3) :
    exec .driveStatus s = repeatReport (refreshStatus s) := if_pos h

theorem repeatReport_absoluteTime {s : State} (h : s.stat.n1 = s.cfg.reqCode .absoluteTime) :
    repeatReport s = buildAbs s := if_pos h

theorem repeatReport_relativeTime {s : State} (hc : s.cfg.wf = true) (h : s.stat.n1 = s.cfg.reqCode .relativeTime) :
    repeatReport s = .next (buildRel s) := by
  have habs : s.stat.n1 ≠ s.cfg.reqCode .absoluteTime := fun e => nomatch Config.reqCode_inj hc (h.symm.trans e)
  rw [repeatReport, if_neg habs, if_pos h]

theorem repeatReport_trackInformation {s : State} (hc : s.cfg.wf = true)
    (h : s.stat.n1 = s.cfg.reqCode .trackInformation) : repeatReport s = .next (buildTrack s) := by
  have habs : s.stat.n1 ≠ s.cfg.reqCode .absoluteTime := fun e => nomatch Config.reqCode_inj hc (h.symm.trans e)
  have hrel : s.stat.n1 ≠ s.cfg.reqCode .relativeTime := fun e => nomatch Config.reqCode_inj hc (h.symm.trans e)
  rw [repeatReport, if_neg habs, if_neg hrel, if_pos h]

/-- The selector that a seek leaves becomes the track report once the latency is over (R182). -/
theorem repeatReport_selInvalid {s : State} (hc : s.cfg.wf = true) (h : s.stat.n1 = selInvalid)
    (hl : s.play.latency = 0) : repeatReport s = .next (buildTrack s) := by
  have hne (x : SubCommand) : s.stat.n1 ≠ s.cfg.reqCode x := fun e => Config.reqCode_ne_selInvalid hc x (e.symm.trans h)
  rw [repeatReport, if_neg (hne _), if_neg (hne _), if_neg (hne _), if_pos ⟨h, hl⟩]

/-- A selector with no report to repeat leaves the payload (R181, R182). -/
theorem repeatReport_other {s : State} (habs : s.stat.n1 ≠ s.cfg.reqCode .absoluteTime)
    (hrel : s.stat.n1 ≠ s.cfg.reqCode .relativeTime) (htrack : s.stat.n1 ≠ s.cfg.reqCode .trackInformation)
    (hsel : ¬ (s.stat.n1 = selInvalid ∧ s.play.latency = 0)) : repeatReport s = .next s := by
  rw [repeatReport, if_neg habs, if_neg hrel, if_neg htrack, if_neg hsel]

/-- From the lead-in on every command completes (R122, R310). -/
theorem exec_completes_of_sector (i : Instr) {s : State} (h : -150 ≤ s.play.sector) : ∃ t, exec i s = .next t := by
  obtain ⟨t, ht, -⟩ | ⟨hlt, -⟩ := exec_result i s
  · exact ⟨t, ht⟩
  · exact absurd hlt (Int.not_lt.mpr h)

/-- Settles O28: the status refresh leaves selector and latency, and a Request is its report over a status refresh. -/
theorem driveStatusRepeatsTheSelectedReport : Obligations.DriveStatusRepeatsTheSelectedReport := by
  intro s
  refine ⟨exec_driveStatus_silent, fun hl h => ?_, fun hc hl h => ?_, fun hc hl h => ?_, fun hc hl h => ?_,
    fun hl habs hrel htrack hsel => ?_, exec_completes_of_sector .driveStatus⟩
  · exact (exec_driveStatus_due hl).trans (repeatReport_absoluteTime (s := refreshStatus s) h)
  · exact (exec_driveStatus_due hl).trans (repeatReport_relativeTime (s := refreshStatus s) hc h)
  · exact (exec_driveStatus_due hl).trans (repeatReport_trackInformation (s := refreshStatus s) hc h)
  · exact (exec_driveStatus_due (by omega)).trans (repeatReport_selInvalid (s := refreshStatus s) hc h hl)
  · have hno : ¬ (s.stat.n1 = selInvalid ∧ s.play.latency = 0) := fun ⟨hF, h0⟩ =>
      hsel.elim (· hF) fun h1 => by omega
    exact (exec_driveStatus_due hl).trans (repeatReport_other (s := refreshStatus s) habs hrel htrack hno)

end Sys2Proof.Machine
end

section
/-!
PROOFS. 43_commands_request.md: the time within the current track, and the two Requests with no report of the disc, a
track that is not on it and the error information (R214, R217, R221, R222).
-/
namespace Sys2Proof.Machine

/-! ### The time within the track (R214, R217) -/

theorem exec_requestRel (s : State) : exec .requestRel s = .next (buildRel (refreshStatus s)) := rfl

theorem relBase_of_curEntry {s : State} {e : TrackEntry} (h : curEntry s = some e) : relBase s = e.startSector := by
  rw [relBase, h]

theorem relBase_of_curEntry_none {s : State} (h : curEntry s = none) : relBase s = 0 := by
  rw [relBase, h]

/-- The digits of a time code read back as its frames where two digits hold the minutes (R121, R123). -/
theorem frames_digits {a : Nat} (h : a < 450000) :
    (pairValue (bcdTens (a / 4500)) (bcdUnits (a / 4500)) * 60
      + pairValue (bcdTens (a / 75 % 60)) (bcdUnits (a / 75 % 60))) * 75
      + pairValue (bcdTens (a % 75)) (bcdUnits (a % 75)) = a := by
  rw [pairValue_bcd (by omega), pairValue_msfRaw_s, pairValue_msfRaw_f]
  omega

/-- Settles O30: the base is `relBase`, and the reply is that of the distance from it. -/
theorem relativeTimeIsTheDistanceFromTheTrackStart : Obligations.RelativeTimeIsTheDistanceFromTheTrackStart := by
  intro s base hbase
  have hrel : base = relBase s := by
    obtain ⟨e, he, rfl⟩ | ⟨hnone, rfl⟩ := hbase
    · exact (relBase_of_curEntry he).symm
    · exact (relBase_of_curEntry_none hnone).symm
  subst hrel
  exact ⟨_, exec_requestRel s, rfl, rfl, rfl, blockFlag_eq s, rfl, rfl, rfl, rfl, rfl, rfl, rfl,
    pairValue_msfRaw_s _, pairValue_msfRaw_f _, frames_digits⟩

/-! ### A track that is not on the disc (R221) -/

theorem trackEntry_eq_none {d : Disc} {n : Nat} (h : n = 0 ∨ d.numTracks < n) : trackEntry d n = none :=
  if_neg (by omega)

theorem exec_requestTstart_none {s : State} {t10 t1 : Nib} (h : trackEntry s.disc (pairValue t10 t1) = none) :
    exec (.requestTstart t10 t1) s = .next (replyFreePayload (refreshStatus s)) := by
  rw [exec, execRequestTstart, h]

/-- Settles O35: no entry has the number, and the reply is a draw of the free payload. -/
theorem missingTrackStillAnswers : Obligations.MissingTrackStillAnswers := fun _ _ _ h =>
  ⟨_, _, _, _, _, _, _, _, exec_requestTstart_none (trackEntry_eq_none h)⟩

/-! ### The error information (R222) -/

theorem exec_requestError (s : State) : exec .requestError s
    = .next (replyPayload (s.cfg.reqCode .errorInformation) 0 0 0 0 0 0 0 (refreshStatus s)) := rfl

/-- Settles O36: the two codes name the Request, and its payload is all zero. -/
theorem errorReportIsAllZero : Obligations.ErrorReportIsAllZero :=
  ⟨fun _ _ hc hv h0 h3 => decode_of_reqCode hc hv h0 .errorInformation h3, exec_requestError⟩

end Sys2Proof.Machine
end

section
/-!
PROOFS. 44_commands_seek.md: the distance term and the laws of the seek latency (R241 to R246), and the Polling Ticks
of a seek up to its completion (R246, R260, R264, R269, R320, R321), with the track refresh that ends it (R129 to R131).
-/
namespace Sys2Proof.Machine

/-! ### The distance term and the latency (R241 to R243, R246) -/

/-- The distance term with the default constants (R9, R242). -/
theorem seekDist_default (target sector : Int) :
    seekDist .default target sector = (target - sector).natAbs * 120 / 270000 := rfl

/-- With the default constants one tick is added per 2250 sectors (R242). -/
theorem seekDist_default_eq_iff {target sector : Int} {n : Nat} : seekDist .default target sector = n ↔
    2250 * n ≤ (target - sector).natAbs ∧ (target - sector).natAbs < 2250 * (n + 1) := by
  rw [seekDist_default]
  omega

/-- Settles O38: the term is defined as the division, and 270000 over 120 is 2250. -/
theorem seekDistanceTerm : Obligations.SeekDistanceTerm :=
  ⟨fun _ _ _ => rfl, seekDist_default, fun _ _ _ => seekDist_default_eq_iff⟩

/-- A larger distance has no smaller term (R246 (a)). -/
theorem seekDist_mono (c : Config) {a b x y : Int} (h : (a - x).natAbs ≤ (b - y).natAbs) :
    seekDist c a x ≤ seekDist c b y :=
  Nat.div_le_div_right (Nat.mul_le_mul_right c.seekNum h)

/-- Two digits, unchecked, are at most fifteen tens and fifteen (R98). -/
theorem pairValue_le (hi lo : Nib) : pairValue hi lo ≤ 165 := by
  simp only [pairValue]
  omega

/-- The largest target is that of six digits 15 (R241). -/
theorem seekTarget_le (m10 m1 s10 s1 f10 f1 : Nib) : seekTarget m10 m1 s10 s1 f10 f1 ≤ 754890 := by
  have hm := pairValue_le m10 m1
  have hs := pairValue_le s10 s1
  have hf := pairValue_le f10 f1
  simp only [seekTarget, toSector, secPerMin, framesPerSec, leadIn]
  omega

/-- Settles O39: the latency grows with the distance term, and the digits bound the targets. -/
theorem seekLatencyLaws : Obligations.SeekLatencyLaws := by
  refine ⟨fun c _ _ _ _ _ h => Nat.add_le_add_left (seekDist_mono c h) _, fun _ _ => rfl,
    fun _ pending d hbase => seekLatency_pos hbase pending d, fun a b ha ha' hb hb' => ?_,
    fun m10 m1 s10 s1 f10 f1 => ⟨seekTarget_ge .., seekTarget_le ..⟩⟩
  rw [seekDist_default]
  omega

/-! ### The track refresh, case by case (R129 to R131) -/

theorem refreshTrack_of_some {s : State} {e : TrackEntry} (h : trackForSector s s.play.sector = some e) :
    refreshTrack s = setTrack e s := by
  rw [refreshTrack, h]

theorem refreshTrack_of_leadIn {s : State} (h : trackForSector s s.play.sector = none) (hneg : s.play.sector < 0) :
    refreshTrack s = setTrackNumber 0 s := by
  rw [refreshTrack, h]
  exact if_pos hneg

theorem refreshTrack_of_pastEnd {s : State} (h : trackForSector s s.play.sector = none) (hpos : 0 ≤ s.play.sector) :
    refreshTrack s = enterLeadOut s := by
  rw [refreshTrack, h]
  exact if_neg (by omega)

/-- The track refresh writes `status`, `track` and `CONTROL` at most (R129 to R131). -/
theorem refreshTrack_frame (s : State) : refreshTrack s = { s with
    control := (refreshTrack s).control,
    play := { s.play with status := (refreshTrack s).play.status, track := (refreshTrack s).play.track } } := by
  cases h : trackForSector s s.play.sector with
  | some e =>
    rw [refreshTrack_of_some h, setTrack]
    split <;> rfl
  | none =>
    by_cases hneg : s.play.sector < 0
    · rw [refreshTrack_of_leadIn h hneg]; rfl
    · rw [refreshTrack_of_pastEnd h (by omega)]; rfl

/-- On a track the status stays, and `DM` follows a change of track (R129, R131). -/
theorem refreshTrack_found {s : State} {e : TrackEntry} (h : trackForSector s s.play.sector = some e) :
    (refreshTrack s).play.status = s.play.status ∧ (refreshTrack s).play.track = e.number
    ∧ (e.number = s.play.track → (refreshTrack s).control = s.control)
    ∧ (e.number ≠ s.play.track → s.cfg.dmBit < 16 →
        dm (refreshTrack s) = if e.type = .data then s.cfg.dmData else !s.cfg.dmData) := by
  rw [refreshTrack_of_some h, setTrack_play]
  refine ⟨rfl, rfl, fun hsame => ?_, fun hne hdm => ?_⟩
  · rw [setTrack_self hsame]
  · rw [dm_setTrack hne hdm, dmOfType_eq]

/-! ### The ticks of a seek (R246, R264, R269) -/

/-- A step that takes an enabled Polling Tick in Seeking (R260, R264). -/
theorem step_pollTick_seeking {s : State} {rest : List Event} (hi : s.inputs = .pollTick :: rest)
    (hp : s.disc.present = true) (hh : s.control.getLsbD 2 = true) (hs : s.play.status = .seeking) :
    step s = .next (tickSeeking { s with inputs := rest, outputs := [.cdcSector 0, .irq] }) := by
  have hne : s.play.status ≠ .playing := by rw [hs]; decide
  rw [step_pollTick hi hp hh, pollOutputs_reading hh hne, pollArm]
  simp only [hs]

/-- While more than one tick of latency is left a tick counts it down and does nothing else (R264). -/
theorem tickSeeking_pending {s : State} (h : 1 < s.play.latency) :
    tickSeeking s = { s with play := { s.play with latency := s.play.latency - 1 } } :=
  if_neg (Nat.sub_ne_zero_of_lt h)

/-- The last tick of latency ends the seek (R264). -/
theorem tickSeeking_last {s : State} (h : s.play.latency = 1) :
    tickSeeking s = finishSeek { s with play := { s.play with latency := 0 } } := by
  simp only [tickSeeking, h, if_true]

/-- The state `k` Polling Ticks into a seek: they are off the queue, their outputs are out, and of the block only
`latency` has moved. -/
def afterSeekTicks (s : State) (rest : List Event) (k : Nat) : State :=
  { s with
    inputs := List.replicate (s.play.latency - k) .pollTick ++ rest
    outputs := if k = 0 then s.outputs else [.cdcSector 0, .irq]
    play := { s.play with latency := s.play.latency - k } }

/-- The state in which a seek has its track refreshed: in the pending status, with no latency left (R264). -/
def seekLanding (s : State) (rest : List Event) : State :=
  { s with
    inputs := rest
    outputs := [.cdcSector 0, .irq]
    play := { s.play with status := s.play.pendingStatus, latency := 0 } }

section
variable {s : State} {rest : List Event} (hp : s.disc.present = true) (hh : s.control.getLsbD 2 = true)
  (hs : s.play.status = .seeking)
include hp hh hs

/-- One more Polling Tick of a seek is the latency timer (R264). -/
theorem step_afterSeekTicks {k : Nat} (hk : k < s.play.latency) :
    step (afterSeekTicks s rest k) = .next (tickSeeking { afterSeekTicks s rest k with
      inputs := List.replicate (s.play.latency - (k + 1)) .pollTick ++ rest, outputs := [.cdcSector 0, .irq] }) := by
  have hin : (afterSeekTicks s rest k).inputs
      = .pollTick :: (List.replicate (s.play.latency - (k + 1)) .pollTick ++ rest) := by
    have hleft : s.play.latency - k = s.play.latency - (k + 1) + 1 := by omega
    rw [afterSeekTicks, hleft]
    rfl
  exact step_pollTick_seeking hin hp hh hs

/-- Short of its latency a seek only counts down (R246 (e), R264). -/
theorem run_afterSeekTicks (hi : s.inputs = List.replicate s.play.latency .pollTick ++ rest) {k : Nat}
    (hk : k < s.play.latency) : core.run k s = .next (afterSeekTicks s rest k) := by
  induction k with
  | zero =>
    have hzero : afterSeekTicks s rest 0 = s := by rw [afterSeekTicks, Nat.sub_zero, ← hi]; rfl
    rw [hzero]
    rfl
  | succ k ih =>
    have hstep := step_afterSeekTicks (rest := rest) hp hh hs (Nat.lt_of_succ_lt hk)
    rw [tickSeeking_pending (Nat.lt_sub_of_add_lt (by omega))] at hstep
    exact core_run_succ (ih (Nat.lt_of_succ_lt hk)) hstep

/-- On the tick its latency names a seek has its track refreshed at the target (R246 (e), R264). -/
theorem run_seek (hi : s.inputs = List.replicate s.play.latency .pollTick ++ rest) (hl : 1 ≤ s.play.latency) :
    core.run s.play.latency s = .next (refreshTrack (seekLanding s rest)) := by
  obtain ⟨n, hn⟩ := Nat.exists_eq_add_of_le' hl
  have hlast : n < s.play.latency := by omega
  have hone : s.play.latency - n = 1 := by omega
  have hnone : s.play.latency - (n + 1) = 0 := by omega
  have hstep := step_afterSeekTicks (rest := rest) hp hh hs hlast
  rw [tickSeeking_last hone, hnone] at hstep
  exact hn ▸ core_run_succ (run_afterSeekTicks hp hh hs hi hlast) hstep

end

/-- Settles O48: the ticks before the last count the latency down, and the last is the track refresh at the target. -/
theorem seekCompletesAfterItsLatency : Obligations.SeekCompletesAfterItsLatency := by
  intro s rest hp hh hs hl hi
  refine ⟨fun k hk => run_afterSeekTicks hp hh hs hi hk, _, run_seek hp hh hs hi hl,
    refreshTrack_frame (seekLanding s rest), fun e he => refreshTrack_found (s := seekLanding s rest) he,
    fun hnone hneg => ?_, fun hnone hpos => ?_⟩
  · rw [refreshTrack_of_leadIn (s := seekLanding s rest) hnone hneg]
    exact ⟨rfl, rfl, rfl⟩
  · rw [refreshTrack_of_pastEnd (s := seekLanding s rest) hnone hpos]
    exact ⟨rfl, rfl, rfl⟩

end Sys2Proof.Machine
end

section
/-!
PROOFS. 45_polling_tick.md: the disabled Polling Tick (R260, R261, R321), the enabled one status by status (R262 to
R268), with the advance through a data track (R266), and the Polling Ticks of the TOC read up to its end (R263, R269).
-/
namespace Sys2Proof.Machine

/-! ### The tick by its gate and its status (R260 to R262, R265, R268, R320, R321) -/

/-- A step that takes a disabled Polling Tick emits its outputs alone (R260, R261). -/
theorem step_pollTick_disabled {s : State} {rest : List Event} (hi : s.inputs = .pollTick :: rest)
    (h : ticking s = false) : step s = .next { s with inputs := rest, outputs := pollOutputs s } := by
  have hoff : ticking (takeEvent rest s) = false := h
  rw [step_event hi, runEvent, pollTick_disabled hoff]
  rfl

theorem ticking_eq_false {s : State} (h : s.control.getLsbD 2 = false ∨ s.disc.present = false) :
    ticking s = false := by
  obtain hh | hp := h
  · rw [ticking, hock, hh, Bool.false_and]
  · rw [ticking, hp, Bool.and_false]

/-- A disabled tick hands on sector 0 (R260, R321). -/
theorem pollOutputs_disabled {s : State} (h : ticking s = false) :
    pollOutputs s = .cdcSector 0 :: (if s.control.getLsbD 2 = true then [.irq] else []) := by
  have hgate : (hock s && s.disc.present) = false := h
  simp only [pollOutputs, cdcSectorOf, hgate, Bool.false_and, Bool.false_eq_true, if_false]
  rfl

/-- Settles O42: a disabled tick is its two outputs, and both follow the gate. -/
theorem disabledPollTickChangesNothing : Obligations.DisabledPollTickChangesNothing := by
  intro s rest hi h
  have hoff := ticking_eq_false h
  rw [step_pollTick_disabled hi hoff, pollOutputs_disabled hoff]

/-- A step that takes an enabled Polling Tick outside Playing (R260). -/
theorem step_pollTick_reading {s : State} {rest : List Event} (hi : s.inputs = .pollTick :: rest)
    (hp : s.disc.present = true) (hh : s.control.getLsbD 2 = true) (hs : s.play.status ≠ .playing) :
    step s = .next (pollArm { s with inputs := rest, outputs := [.cdcSector 0, .irq] }) := by
  rw [step_pollTick hi hp hh, pollOutputs_reading hh hs]

theorem pollArm_stopped {s : State} (hs : s.play.status = .stopped) : pollArm s = tickStopped s := by
  rw [pollArm]
  simp only [hs]

theorem pollArm_readingToc {s : State} (hs : s.play.status = .readingToc) : pollArm s = tickReadingToc s := by
  rw [pollArm]
  simp only [hs]

theorem pollArm_playing {s : State} (hs : s.play.status = .playing) : pollArm s = tickPlaying s := by
  rw [pollArm]
  simp only [hs]

/-- In the other twelve statuses the tick has no arm (R265, R268). -/
theorem pollArm_idle {s : State} (hstop : s.play.status ≠ .stopped) (htoc : s.play.status ≠ .readingToc)
    (hseek : s.play.status ≠ .seeking) (hplay : s.play.status ≠ .playing) : pollArm s = s := by
  obtain ⟨h, -⟩ | ⟨h, -⟩ | ⟨h, -⟩ | ⟨h, -⟩ | h := pollArm_cases s
  · exact absurd h hstop
  · exact absurd h htoc
  · exact absurd h hseek
  · exact absurd h hplay
  · exact h

/-- Stop leaves the TOC read or NoDisc (R183). -/
theorem exec_stop_status {s t : State} (h : exec .stop s = .next t) : t.play.status ≠ .stopped := by
  obtain ⟨hstop, -⟩ := stopAndDoorResults s
  rw [hstop] at h
  cases h
  dsimp only
  split <;> decide

/-- An insertion that reports success leaves Stopped (R345). -/
theorem insertDisc_status_of_insertOk {p : DiscPayload} {s t : State} (h : insertDisc p s = .next t)
    (hs : s.outputs = []) (ht : t.outputs = [.insertOk]) : t.play.status = .stopped := by
  obtain ⟨k, ts, rfl⟩ | rfl := insertDisc_next h
  · rfl
  · rw [insertFailed, emit, hs] at ht
    cases ht

/-- Settles O43: the arm of Stopped starts the TOC read, and only the insertion, not Stop, leaves Stopped. -/
theorem stoppedTickStartsTheTocRead : Obligations.StoppedTickStartsTheTocRead := by
  refine ⟨fun s rest hi hh hp hs => ?_, fun s t => exec_stop_status, fun s t kind ts rest hi h ht => ?_⟩
  · have hne : s.play.status ≠ .playing := by rw [hs]; decide
    rw [step_pollTick_reading hi hp hh hne]
    exact congrArg Host.Outcome.next (pollArm_stopped hs)
  · rw [step_event hi] at h
    exact insertDisc_status_of_insertOk (p := .image kind ts) (s := takeEvent rest s) h rfl ht

/-- Settles O44: the outputs are those of every status but Playing, and the tick has no arm. -/
theorem idleStatusesIgnoreTheTick : Obligations.IdleStatusesIgnoreTheTick := by
  intro s rest hi hh hp hstop htoc hseek hplay
  rw [step_pollTick_reading hi hp hh hplay]
  exact congrArg Host.Outcome.next (pollArm_idle hstop htoc hseek hplay)

/-! ### Playing (R260, R266) -/

/-- In Playing an enabled tick hands on the sector (R260, R320, R321). -/
theorem pollOutputs_playing {s : State} (hp : s.disc.present = true) (hh : s.control.getLsbD 2 = true)
    (hs : s.play.status = .playing) : pollOutputs s = [.cdcSector s.play.sector, .irq] := by
  have hhock : hock s = true := hh
  simp [pollOutputs, cdcSectorOf, hhock, hp, hs]

/-- A step that takes an enabled Polling Tick in Playing (R260, R266). -/
theorem step_pollTick_playing {s : State} {rest : List Event} (hi : s.inputs = .pollTick :: rest)
    (hp : s.disc.present = true) (hh : s.control.getLsbD 2 = true) (hs : s.play.status = .playing) :
    step s = .next (tickPlaying { s with inputs := rest, outputs := [.cdcSector s.play.sector, .irq] }) := by
  rw [step_pollTick hi hp hh, pollOutputs_playing hp hh hs]
  exact congrArg Host.Outcome.next (pollArm_playing hs)

/-- On an audio track the tick is the end test alone (R266). -/
theorem tickPlaying_audio {s : State} {e : TrackEntry} (he : curEntry s = some e) (ht : e.type = .audio) :
    tickPlaying s = endTest s := by
  simp [tickPlaying, pollAdvances, he, ht]

/-- On a data track or none the tick advances the sector, then refreshes the track, then makes the end test (R266). -/
theorem tickPlaying_data {s : State} (h : curEntry s = none ∨ ∃ e, curEntry s = some e ∧ e.type = .data) :
    tickPlaying s = endTest (refreshTrack (setSector (s.play.sector + 1) s)) := by
  obtain hnone | ⟨e, he, ht⟩ := h
  · simp [tickPlaying, pollAdvances, hnone]
  · simp [tickPlaying, pollAdvances, he, ht]

theorem endTest_before {s : State} (h : s.play.sector < s.disc.totalEnd) : endTest s = s :=
  if_neg fun ⟨_, hend⟩ => absurd h (Int.not_lt.mpr hend)

theorem endTest_atEnd {s : State} (hs : s.play.status = .playing) (h : (s.disc.totalEnd : Int) ≤ s.play.sector) :
    endTest s = enterLeadOut s := if_pos ⟨hs, h⟩

/-- Settles O46: on an audio track the tick is the end test, which enters LeadOut or does nothing. -/
theorem playingAudioWaitsForTheAudioTick : Obligations.PlayingAudioWaitsForTheAudioTick := by
  intro s rest e hi hh hp hs he ht
  have harm : step s = .next (endTest { s with inputs := rest, outputs := [.cdcSector s.play.sector, .irq] }) :=
    (step_pollTick_playing hi hp hh hs).trans (congrArg Host.Outcome.next (tickPlaying_audio he ht))
  rw [harm]
  obtain hend | hbefore := le_or_gt (s.disc.totalEnd : Int) s.play.sector
  · rw [if_pos hend]
    exact congrArg Host.Outcome.next (endTest_atEnd hs hend)
  · rw [if_neg (Int.not_le.mpr hbefore)]
    exact congrArg Host.Outcome.next (endTest_before hbefore)

/-! ### The advance through a data track (R129 to R131, R266) -/

theorem trackForSector_of_neg {s : State} {m : Int} (h : m < 0) : trackForSector s m = none := if_pos h

/-- Every sector of a good disc is in a track (R43, R126). -/
theorem exists_trackForSector {s : State} {m : Int} (hd : s.disc.ok = true) (hp : s.disc.present = true)
    (h0 : 0 ≤ m) (hend : m < s.disc.totalEnd) : ∃ e, trackForSector s m = some e := by
  rw [← Option.ne_none_iff_exists', Ne, trackForSector_eq_none_iff hd hp]
  rintro (hneg | hpast)
  · omega
  · exact hpast (.inl hend)

@[simp] theorem refreshTrack_sector (s : State) : (refreshTrack s).play.sector = s.play.sector := by
  rw [refreshTrack_frame]

/-- Before the end of the disc the end test after a track refresh does nothing (R266). -/
theorem endTest_refreshTrack_before {s : State} (h : s.play.sector < s.disc.totalEnd) :
    endTest (refreshTrack s) = refreshTrack s :=
  endTest_before (by rw [refreshTrack_sector, refreshTrack_disc]; exact h)

/-- From the end of the disc on LeadOut is entered by the track refresh where the lookup misses, else by the end test
after it (R131, R266). -/
theorem endTest_refreshTrack_atEnd {s : State} (hs : s.play.status = .playing)
    (h : (s.disc.totalEnd : Int) ≤ s.play.sector) :
    (endTest (refreshTrack s)).play = { s.play with status := .leadOut, track := leadoutNumber s.cfg } := by
  obtain ⟨e, -, he⟩ | ⟨-, hneg, -⟩ | ⟨-, -, hout⟩ := refreshTrack_play s
  · rw [endTest_atEnd (by rw [he]; exact hs) (by simpa using h), enterLeadOut_play, he, refreshTrack_cfg]
  · omega
  · rw [endTest, if_neg (by rw [hout]; rintro ⟨hplay, -⟩; cases hplay), hout]

/-- The state in which a data tick has its track refreshed: one sector on, with its outputs out (R266). -/
def dataTickLanding (s : State) (rest : List Event) : State :=
  { s with
    inputs := rest
    outputs := [.cdcSector s.play.sector, .irq]
    play := { s.play with sector := s.play.sector + 1 } }

theorem step_pollTick_data {s : State} {rest : List Event} (hi : s.inputs = .pollTick :: rest)
    (hp : s.disc.present = true) (hh : s.control.getLsbD 2 = true) (hs : s.play.status = .playing)
    (h : curEntry s = none ∨ ∃ e, curEntry s = some e ∧ e.type = .data) :
    step s = .next (endTest (refreshTrack (dataTickLanding s rest))) :=
  (step_pollTick_playing hi hp hh hs).trans (congrArg Host.Outcome.next (tickPlaying_data h))

/-- Settles O45: the tick refreshes the track one sector on, and from the end of the disc on it enters LeadOut. -/
theorem playingDataAdvancesOneSector : Obligations.PlayingDataAdvancesOneSector := by
  intro s rest hd hi hh hp hs hcur
  refine ⟨_, step_pollTick_data hi hp hh hs hcur, (endTest_outputs _).trans (refreshTrack_outputs _),
    (endTest_inputs _).trans (refreshTrack_inputs _), (endTest_stat _).trans (refreshTrack_stat _),
    (endTest_cmd _).trans (refreshTrack_cmd _), (endTest_disc _).trans (refreshTrack_disc _), ?_⟩
  obtain hend | hbefore := le_or_gt (s.disc.totalEnd : Int) (s.play.sector + 1)
  · rw [endTest_refreshTrack_atEnd (s := dataTickLanding s rest) hs hend, if_pos hend]
    exact ⟨rfl, fun _ => rfl, fun _ => by omega, fun _ _ => by omega⟩
  · rw [endTest_refreshTrack_before (s := dataTickLanding s rest) hbefore, if_neg (Int.not_le.mpr hbefore), ← hs]
    obtain hneg | h0 := lt_or_ge (s.play.sector + 1) 0
    · have hnone := trackForSector_of_neg (s := dataTickLanding s rest) hneg
      rw [refreshTrack_of_leadIn (s := dataTickLanding s rest) hnone hneg]
      exact ⟨rfl, fun _ => by omega, fun _ => rfl, fun _ => by omega⟩
    · obtain ⟨e, he⟩ := exists_trackForSector (s := dataTickLanding s rest) hd hp h0 hbefore
      obtain ⟨hstatus, htrack, hcontrol⟩ := refreshTrack_found (s := dataTickLanding s rest) he
      refine ⟨?_, fun _ => by omega, fun _ => by omega, fun _ _ => ⟨e, he, htrack, hcontrol⟩⟩
      rw [refreshTrack_frame, hstatus]
      rfl

/-! ### The ticks of the TOC read (R260, R263, R269) -/

/-- Up to the lead-in boundary a tick of the TOC read advances the sector and does nothing else (R263). -/
theorem tickReadingToc_pending {s : State} (h : s.play.sector + 1 ≤ 150) :
    tickReadingToc s = setSector (s.play.sector + 1) s :=
  if_neg (Int.not_lt.mpr h)

/-- Past the lead-in boundary the tick ends the TOC read (R263). -/
theorem tickReadingToc_last {s : State} (h : 150 < s.play.sector + 1) :
    tickReadingToc s = finishToc (setSector (s.play.sector + 1) s) :=
  if_pos h

/-- The state `k` of `n` Polling Ticks into the TOC read: they are off the queue, their outputs are out, and of the
block only `sector` has moved. -/
def afterTocTicks (s : State) (n : Nat) (rest : List Event) (k : Nat) : State :=
  { s with
    inputs := List.replicate (n - k) .pollTick ++ rest
    outputs := if k = 0 then s.outputs else [.cdcSector 0, .irq]
    play := { s.play with sector := s.play.sector + k } }

/-- The state in which the TOC read has its track refreshed: in Paused, one sector on and past the lead-in
boundary (R263). -/
def tocLanding (s : State) (rest : List Event) : State :=
  { s with
    inputs := rest
    outputs := [.cdcSector 0, .irq]
    play := { s.play with status := .paused, sector := max (s.play.sector + 1) 151, tocReadDone := true } }

section
variable {s : State} {n : Nat} {rest : List Event} (hp : s.disc.present = true) (hh : s.control.getLsbD 2 = true)
  (hs : s.play.status = .readingToc)
include hp hh hs

/-- One more Polling Tick of the TOC read is its arm (R263). -/
theorem step_afterTocTicks {k : Nat} (hk : k < n) :
    step (afterTocTicks s n rest k) = .next (tickReadingToc { afterTocTicks s n rest k with
      inputs := List.replicate (n - (k + 1)) .pollTick ++ rest, outputs := [.cdcSector 0, .irq] }) := by
  have hin : (afterTocTicks s n rest k).inputs
      = .pollTick :: (List.replicate (n - (k + 1)) .pollTick ++ rest) := by
    have hleft : n - k = n - (k + 1) + 1 := by omega
    rw [afterTocTicks, hleft]
    rfl
  have hstatus : (afterTocTicks s n rest k).play.status = .readingToc := hs
  have hne : (afterTocTicks s n rest k).play.status ≠ .playing := by rw [hstatus]; decide
  rw [step_pollTick_reading hin hp hh hne]
  exact congrArg Host.Outcome.next (pollArm_readingToc hs)

/-- Up to the lead-in boundary the ticks of the TOC read only advance the sector (R263). -/
theorem run_afterTocTicks (hn : n = (max 1 (151 - s.play.sector)).toNat)
    (hi : s.inputs = List.replicate n .pollTick ++ rest) {k : Nat} (hk : k < n) :
    core.run k s = .next (afterTocTicks s n rest k) := by
  induction k with
  | zero =>
    have hzero : afterTocTicks s n rest 0 = s := by
      simp only [afterTocTicks, Nat.sub_zero, ← hi, if_true, Nat.cast_zero, Int.add_zero]
    rw [hzero]
    rfl
  | succ k ih =>
    have hstep := step_afterTocTicks (rest := rest) hp hh hs (Nat.lt_of_succ_lt hk)
    have hnext : s.play.sector + k + 1 ≤ 150 := by omega
    rw [tickReadingToc_pending hnext] at hstep
    refine core_run_succ (ih (Nat.lt_of_succ_lt hk)) (hstep.trans ?_)
    simp only [afterTocTicks, setSector, Nat.cast_succ, Int.add_assoc, Nat.succ_ne_zero, if_false]

/-- On its last tick the TOC read has its track refreshed past the lead-in boundary (R263, R269). -/
theorem run_toc (hn : n = (max 1 (151 - s.play.sector)).toNat)
    (hi : s.inputs = List.replicate n .pollTick ++ rest) : core.run n s = .next (refreshTrack (tocLanding s rest)) := by
  obtain ⟨k, rfl⟩ : ∃ k, n = k + 1 := ⟨n - 1, by omega⟩
  have hlast : 150 < s.play.sector + k + 1 := by omega
  have hsector : s.play.sector + k + 1 = max (s.play.sector + 1) 151 := by omega
  have hstep := step_afterTocTicks (rest := rest) hp hh hs (Nat.lt_succ_self k)
  rw [tickReadingToc_last hlast] at hstep
  refine core_run_succ (run_afterTocTicks hp hh hs hn hi (Nat.lt_succ_self k)) (hstep.trans ?_)
  simp only [finishToc, setSector, afterTocTicks, tocLanding, hsector, Nat.sub_self, List.replicate_zero,
    List.nil_append]

end

/-- Settles O47: the ticks before the last advance the sector, and the last is the track refresh from Paused. -/
theorem tocReadTakesItsTicks : Obligations.TocReadTakesItsTicks := by
  intro s n rest hp hh hs hn hi
  refine ⟨fun k hk => run_afterTocTicks hp hh hs hn hi hk, _, run_toc hp hh hs hn hi,
    refreshTrack_frame (tocLanding s rest), fun e he => refreshTrack_found (s := tocLanding s rest) he,
    fun hnone => ?_⟩
  have hpos : 0 ≤ (tocLanding s rest).play.sector := le_max_of_le_right (by decide)
  rw [refreshTrack_of_pastEnd (s := tocLanding s rest) hnone hpos]
  exact ⟨rfl, rfl, rfl⟩

end Sys2Proof.Machine
end

section
/-!
PROOFS. 46_audio_tick.md: the Audio Tick that does not read (R291) and the one whose read fails (R294).
-/
namespace Sys2Proof.Machine

/-! ### The silent tick (R290, R291) -/

/-- Where an Audio Tick does not read: outside Playing, without a current track, or on a data track (R291). -/
theorem audioEntry_eq_none {s : State}
    (h : s.play.status ≠ .playing ∨ curEntry s = none ∨ ∃ e, curEntry s = some e ∧ e.type = .data) :
    audioEntry s = none := by
  rw [audioEntry, ite_eq_right_iff]
  intro hplay
  obtain hne | hnone | ⟨e, hcur, hdata⟩ := h
  · exact absurd hplay hne
  · rw [hnone]
    rfl
  · simp [hcur, Option.filter, hdata]

/-- What an Audio Tick that does not read is (R291). -/
theorem audioTick_of_no_entry {s : State} (h : audioEntry s = none) (io : TrackIo) :
    audioTick io s = emit (.sample 0 0) s := by
  rw [audioTick, h]
  rfl

/-- The range of R36 does nothing to a tick that leaves the offset. -/
theorem keepOffsetRange_of_same_offset {b t : State} (h : t.play.sampleOffset = b.play.sampleOffset) :
    keepOffsetRange b t = t := by
  obtain ⟨-, e⟩ | ⟨-, hb, -, ht, -⟩ := keepOffsetRange_cases b t
  · exact e
  · omega

/-- The event of an Audio Tick that does not read is the silent pair alone: the offset stands still (R36, R291). -/
theorem audioEvent_of_no_entry {s : State} (h : audioEntry s = none) (io : TrackIo) :
    audioEvent io s = emit (.sample 0 0) s := by
  rw [audioEvent, audioTick_of_no_entry h]
  exact keepOffsetRange_of_same_offset rfl

/-- Settles O49: in each of the three cases the tick has no entry to read from. -/
theorem silentAudioTickChangesNothing : Obligations.SilentAudioTickChangesNothing := by
  intro s io rest hi hcases
  have hnone : audioEntry (takeEvent rest s) = none := audioEntry_eq_none (s := takeEvent rest s) hcases
  exact (step_event hi).trans (congrArg Host.Outcome.next (audioEvent_of_no_entry hnone io))

/-! ### The failed read (R294) -/

/-- The answer of the byte source reaches the sample alone, and a failure makes it silence (R290, R294). -/
theorem audioTick_failure (io : TrackIo) (s : State) :
    audioTick .failure s = { audioTick io s with outputs := s.outputs ++ [.sample 0 0] } := by
  cases h : audioEntry s with
  | none =>
    rw [audioTick_of_no_entry h, audioTick_of_no_entry h]
    rfl
  | some e =>
    rw [audioTick_of_entry h, audioTick_of_entry h, readSample_none (.inr (.inr rfl)), emitSample, emit,
      stepSample_outputs]
    rfl

/-- The range of R36 neither reads nor writes the outputs. -/
theorem keepOffsetRange_withOutputs (b t : State) (o : List Output) :
    keepOffsetRange b { t with outputs := o } = { keepOffsetRange b t with outputs := o } := by
  unfold keepOffsetRange
  split <;> rfl

/-- Settles O50: the ticks differ in the sample alone, and so they do after the range of R36. -/
theorem failedReadKeepsThePosition : Obligations.FailedReadKeepsThePosition := by
  refine fun s io => ⟨?_, audioEvent_stat io s⟩
  rw [audioEvent, audioTick_failure io, keepOffsetRange_withOutputs, audioEvent]

end Sys2Proof.Machine
end

section
/-!
PROOFS. 60_exceptions.md and 70_reset_and_hazards.md: no event of a good host is refused (R310), Eject (R348), and the
round trip of a save (R350, R351).
-/
namespace Sys2Proof.Machine

/-! ### No event of a good host is refused (R65, R122, R310, R347) -/

/-- An acceptable event is refused only for a sector below the lead-in (R65, R122, R347). -/
theorem sector_lt_of_acceptable_refused {e : Event} {s : State} {r : Refusal} (ha : e.acceptable s = true)
    (h : runEvent e s = .refused r) : s.play.sector < -150 := by
  obtain ⟨off, n, v, rfl, hm, -⟩ | ⟨off, n, rfl, hm, -⟩ | ⟨p, rfl, hp, -⟩ | ⟨hlt, -⟩ := runEvent_refused_iff.mp h
  · simp [Event.acceptable, hm] at ha
  · simp [Event.acceptable, hm] at ha
  · simp [Event.acceptable, hp] at ha
  · exact hlt

/-- From the lead-in on every acceptable event completes (R310). -/
theorem runEvent_completes {e : Event} {s : State} (hs : -150 ≤ s.play.sector) (ha : e.acceptable s = true) :
    ∃ t, runEvent e s = .next t := by
  cases h : runEvent e s with
  | next t => exact ⟨t, rfl⟩
  | fault a => cases a
  | refused r => exact absurd (sector_lt_of_acceptable_refused ha h) (Int.not_lt.mpr hs)

/-- Taking the event off the queue does not change whether the spec refuses it. -/
@[simp] theorem acceptable_takeEvent (e : Event) (rest : List Event) (s : State) :
    e.acceptable (takeEvent rest s) = e.acceptable s := by
  cases e <;> rfl

/-- Settles O13: a state in range stands at or above the lead-in, where every acceptable event completes. -/
theorem goodHostIsNeverRefused : Obligations.GoodHostIsNeverRefused := by
  refine ⟨fun s e rest hs hi ha => ?_, fun s hi => ?_⟩
  · obtain ⟨-, -, hplay⟩ := State.ok_iff.mp hs
    obtain ⟨hsector, -⟩ := Playback.ok_iff.mp hplay
    rw [step_event hi]
    exact runEvent_completes (s := takeEvent rest s) hsector ((acceptable_takeEvent e rest s).trans ha)
  · rw [step_idle hi, takeEvent, ← hi]

/-! ### The removal of the disc (R41, R348) -/

/-- Settles O60: Eject writes the empty disc and the playback defaults, whatever was there. -/
theorem ejectLeavesNoDisc : Obligations.EjectLeavesNoDisc :=
  fun _ _ hi => step_event hi

/-! ### Save and restore (R350, R351) -/

/-- The saved surface is all of the block but its disc, its parameters and its draws (R350, R351). -/
theorem sameBlock_restoreState {s t : State} (hd : t.disc = s.disc) (hc : t.cfg = s.cfg) (hn : t.draws = s.draws) :
    sameBlock s (restoreState (savedOf s) t) :=
  ⟨rfl, rfl, rfl, rfl, hd.symm, hc.symm, hn.symm⟩

/-- Settles O16: the save emits the saved surface, and the restore of it writes that back. -/
theorem restoreUndoesEverything : Obligations.RestoreUndoesEverything :=
  fun s _ hi => ⟨savedOf s, step_event hi, fun t r ht hd hc hn =>
    ⟨restoreState (savedOf s) (takeEvent r t), step_event ht,
      sameBlock_restoreState (t := takeEvent r t) hd hc hn⟩⟩

end Sys2Proof.Machine
end
